-- ==== Sys2Proof/Word.lean ====
section
/-! DEFINITION. The word types of OWM. Bits are numbered from 0, the least significant (spec 00_scope.md R8). -/

namespace Sys2Proof

/-- A byte: a register of 8 bits, a payload byte, an error payload. -/
abbrev Byte := BitVec 8

/-- A word of the host's register interface (R40), the command word among them (R90). -/
abbrev Word := BitVec 32

/-- A 64-bit device address or conflict mask (R21, R22). -/
abbrev Word64 := BitVec 64

end Sys2Proof
end

