-- ==== Sys2Proof/Syntax.lean ====
section
/-! DEFINITION. The syntax of OWM: the 21 host operations, one constructor per row of spec/opcode_table.json
(30_encoding.md R96). -/

namespace Sys2Proof

/-- The address mode of a function command (R93). The fourth code is illegal and has no constructor. -/
inductive AddrMode where
  /-- code 0, `NONE`: start at the command byte -/
  | noAddr
  /-- code 1, `SKIP`: first the whole of `SKIP_ROM` -/
  | skipAddr
  /-- code 2, `MATCH`: first the whole of `MATCH_ROM` with `ADDR` -/
  | matchAddr
  deriving DecidableEq, Repr

/-- The operations (R96), operands as R92 assembles them. -/
inductive Instr where
  | nop
  | init
  | rbit
  | wbit (b : Bool)
  | rbyte
  | wbyte (imm8 : Byte)
  | rbytes (n : BitVec 4)
  | wbytes (n : BitVec 4)
  | crc (n : BitVec 4)
  | crcchk (n : BitVec 4)
  | readRom
  | matchRom
  | skipRom
  | searchRom
  | alarmSearch
  | convertT (am : AddrMode)
  | recallE2 (am : AddrMode)
  | readPower (am : AddrMode)
  | copySp (am : AddrMode)
  | readSp (am : AddrMode)
  | writeSp (am : AddrMode)
  deriving DecidableEq, Repr

end Sys2Proof
end

