-- ==== Sys2Proof/WellFormed.lean ====
section
/-! DEFINITION. Which terms of the syntax are instructions of OWM: the constraint column of R96. -/

namespace Sys2Proof

/-- R91: `LEN` is 0 to 9; 10 to 15 are illegal. -/
def lenOk (n : BitVec 4) : Bool := decide (n.toNat ≤ 9)

/-- R91, R96: the constraint of the instruction's row. The other constraints (`AM`, unused fields) cannot be
broken by a term of the syntax. -/
def Instr.wellFormed : Instr → Bool
  | .rbytes n => lenOk n
  | .wbytes n => lenOk n
  | .crc n => lenOk n
  | .crcchk n => lenOk n
  | .nop => true
  | .init => true
  | .rbit => true
  | .wbit _ => true
  | .rbyte => true
  | .wbyte _ => true
  | .readRom => true
  | .matchRom => true
  | .skipRom => true
  | .searchRom => true
  | .alarmSearch => true
  | .convertT _ => true
  | .recallE2 _ => true
  | .readPower _ => true
  | .copySp _ => true
  | .readSp _ => true
  | .writeSp _ => true

end Sys2Proof
end

