-- ==== Sys2Proof/Decode.lean ====
section
/-! DEFINITION. The decoder and the encoder of the command word (spec 30_encoding.md R90 to R92, R96, R100), and the
operation map as rows of match and mask. The decoder is total on 32-bit words and names why it rejects one. -/

namespace Sys2Proof

/-- `OPC = w[7:0]` (R90). -/
def opcOf (w : Word) : Byte := w.extractLsb' 0 8
/-- `AM = w[9:8]` (R90). -/
def amOf (w : Word) : BitVec 2 := w.extractLsb' 8 2
/-- `w[11:10]`, must be 0 (R90). -/
def rsvLowOf (w : Word) : BitVec 2 := w.extractLsb' 10 2
/-- `LEN = w[15:12]` (R90). -/
def lenOf (w : Word) : BitVec 4 := w.extractLsb' 12 4
/-- `IMM = w[23:16]` (R90). -/
def immOf (w : Word) : Byte := w.extractLsb' 16 8
/-- `w[31:24]`, must be 0 (R90). -/
def rsvHighOf (w : Word) : Byte := w.extractLsb' 24 8

/-- Why a command word is illegal (R100), one name per clause of the rule. -/
inductive DecodeError where
  /-- `OPC` is not one of the 21 codes -/
  | unknownOpcode
  /-- `w[11:10]` or `w[31:24]` is not 0 -/
  | reservedBits
  /-- a field the operation does not use is not 0 -/
  | unusedField
  /-- `LEN > 9` on a `LEN` operation -/
  | lenTooLarge
  /-- `AM = 3` on a function command -/
  | badAddrMode
  /-- `IMM[7:1] != 0` on `WBIT` -/
  | badImmediateBit
  deriving DecidableEq, Repr

/-- R91: an operation that uses no field. -/
def decodeBare (i : Instr) (am : BitVec 2) (len : BitVec 4) (imm : Byte) : Except DecodeError Instr :=
  if am = 0#2 ∧ len = 0#4 ∧ imm = 0#8 then .ok i else .error .unusedField

/-- R91: `WBIT`, whose operand is `IMM[0]`. -/
def decodeWbit (am : BitVec 2) (len : BitVec 4) (imm : Byte) : Except DecodeError Instr :=
  if am = 0#2 ∧ len = 0#4 then
    (if imm.extractLsb' 1 7 = 0#7 then .ok (.wbit (imm.getLsbD 0)) else .error .badImmediateBit)
  else .error .unusedField

/-- R91: `WBYTE`, whose operand is all of `IMM`. -/
def decodeWbyte (am : BitVec 2) (len : BitVec 4) (imm : Byte) : Except DecodeError Instr :=
  if am = 0#2 ∧ len = 0#4 then .ok (.wbyte imm) else .error .unusedField

/-- R91: an operation with a count. -/
def decodeLen (mk : BitVec 4 → Instr) (am : BitVec 2) (len : BitVec 4) (imm : Byte) :
    Except DecodeError Instr :=
  if am = 0#2 ∧ imm = 0#8 then (if lenOk len then .ok (mk len) else .error .lenTooLarge)
  else .error .unusedField

/-- R91, R93: the address mode of a code, if it has one. -/
def addrModeOf (am : BitVec 2) : Option AddrMode :=
  if am = 0#2 then some .noAddr
  else if am = 1#2 then some .skipAddr
  else if am = 2#2 then some .matchAddr
  else none

/-- R91: a function command. -/
def decodeFn (mk : AddrMode → Instr) (am : BitVec 2) (len : BitVec 4) (imm : Byte) :
    Except DecodeError Instr :=
  if len = 0#4 ∧ imm = 0#8 then
    (match addrModeOf am with
     | some m => .ok (mk m)
     | none => .error .badAddrMode)
  else .error .unusedField

/-- R96: dispatch on `OPC`, the fields given. -/
def decodeFields (opc : Byte) (am : BitVec 2) (len : BitVec 4) (imm : Byte) : Except DecodeError Instr :=
  match opc.toNat with
  | 0x00 => decodeBare .nop am len imm
  | 0x01 => decodeBare .init am len imm
  | 0x02 => decodeBare .rbit am len imm
  | 0x03 => decodeWbit am len imm
  | 0x04 => decodeBare .rbyte am len imm
  | 0x05 => decodeWbyte am len imm
  | 0x06 => decodeLen .rbytes am len imm
  | 0x07 => decodeLen .wbytes am len imm
  | 0x08 => decodeLen .crc am len imm
  | 0x09 => decodeLen .crcchk am len imm
  | 0x33 => decodeBare .readRom am len imm
  | 0x55 => decodeBare .matchRom am len imm
  | 0xCC => decodeBare .skipRom am len imm
  | 0xF0 => decodeBare .searchRom am len imm
  | 0xEC => decodeBare .alarmSearch am len imm
  | 0x44 => decodeFn .convertT am len imm
  | 0xB8 => decodeFn .recallE2 am len imm
  | 0xB4 => decodeFn .readPower am len imm
  | 0x48 => decodeFn .copySp am len imm
  | 0xBE => decodeFn .readSp am len imm
  | 0x4E => decodeFn .writeSp am len imm
  | _ => .error .unknownOpcode

/-- R245: the decoder of the command word. Every word either is one instruction or is rejected by name. -/
def decode (w : Word) : Except DecodeError Instr :=
  if rsvLowOf w = 0#2 ∧ rsvHighOf w = 0#8 then decodeFields (opcOf w) (amOf w) (lenOf w) (immOf w)
  else .error .reservedBits

/-! The encoder, written from R90, R91 and R96. -/

/-- The word of R90's diagram. -/
def commandWord (imm : Byte) (len : BitVec 4) (am : BitVec 2) (opc : Byte) : Word :=
  0#8 ++ imm ++ len ++ 0#2 ++ am ++ opc

/-- The code of an address mode (R91). -/
def AddrMode.code : AddrMode → BitVec 2
  | .noAddr => 0#2
  | .skipAddr => 1#2
  | .matchAddr => 2#2

/-- The operation code (R96). For a protocol command it is the byte written on the wire (R97). -/
def Instr.opc : Instr → Byte
  | .nop => 0x00#8
  | .init => 0x01#8
  | .rbit => 0x02#8
  | .wbit _ => 0x03#8
  | .rbyte => 0x04#8
  | .wbyte _ => 0x05#8
  | .rbytes _ => 0x06#8
  | .wbytes _ => 0x07#8
  | .crc _ => 0x08#8
  | .crcchk _ => 0x09#8
  | .readRom => 0x33#8
  | .matchRom => 0x55#8
  | .skipRom => 0xCC#8
  | .searchRom => 0xF0#8
  | .alarmSearch => 0xEC#8
  | .convertT _ => 0x44#8
  | .recallE2 _ => 0xB8#8
  | .readPower _ => 0xB4#8
  | .copySp _ => 0x48#8
  | .readSp _ => 0xBE#8
  | .writeSp _ => 0x4E#8

/-- The `AM` field of an instruction (R91). -/
def Instr.amField : Instr → BitVec 2
  | .convertT am => am.code
  | .recallE2 am => am.code
  | .readPower am => am.code
  | .copySp am => am.code
  | .readSp am => am.code
  | .writeSp am => am.code
  | _ => 0#2

/-- The `LEN` field of an instruction (R91). -/
def Instr.lenField : Instr → BitVec 4
  | .rbytes n => n
  | .wbytes n => n
  | .crc n => n
  | .crcchk n => n
  | _ => 0#4

/-- The `IMM` field of an instruction (R91). -/
def Instr.immField : Instr → Byte
  | .wbit b => 0#7 ++ BitVec.ofBool b
  | .wbyte imm8 => imm8
  | _ => 0#8

/-- The command word of an instruction (R90, R103). -/
def encode (i : Instr) : Word := commandWord i.immField i.lenField i.amField i.opc

/-! The operation map as rows (R96): a second, independent reading of the same table. -/

/-- One row of R96. -/
structure OpRow where
  mnemonic : String
  bits     : Word
  mask     : Word
  deriving DecidableEq, Repr

/-- The 21 rows of R96, in the table's order. -/
def opRows : List OpRow :=
  [⟨"NOP", 0x00000000#32, 0xFFFFFFFF#32⟩,
   ⟨"INIT", 0x00000001#32, 0xFFFFFFFF#32⟩,
   ⟨"RBIT", 0x00000002#32, 0xFFFFFFFF#32⟩,
   ⟨"WBIT", 0x00000003#32, 0xFFFEFFFF#32⟩,
   ⟨"RBYTE", 0x00000004#32, 0xFFFFFFFF#32⟩,
   ⟨"WBYTE", 0x00000005#32, 0xFF00FFFF#32⟩,
   ⟨"RBYTES", 0x00000006#32, 0xFFFF0FFF#32⟩] ++
  [⟨"WBYTES", 0x00000007#32, 0xFFFF0FFF#32⟩,
   ⟨"CRC", 0x00000008#32, 0xFFFF0FFF#32⟩,
   ⟨"CRCCHK", 0x00000009#32, 0xFFFF0FFF#32⟩,
   ⟨"READ_ROM", 0x00000033#32, 0xFFFFFFFF#32⟩,
   ⟨"MATCH_ROM", 0x00000055#32, 0xFFFFFFFF#32⟩,
   ⟨"SKIP_ROM", 0x000000CC#32, 0xFFFFFFFF#32⟩,
   ⟨"SEARCH_ROM", 0x000000F0#32, 0xFFFFFFFF#32⟩] ++
  [⟨"ALARM_SEARCH", 0x000000EC#32, 0xFFFFFFFF#32⟩,
   ⟨"CONVERT_T", 0x00000044#32, 0xFFFFFCFF#32⟩,
   ⟨"RECALL_E2", 0x000000B8#32, 0xFFFFFCFF#32⟩,
   ⟨"READ_POWER", 0x000000B4#32, 0xFFFFFCFF#32⟩,
   ⟨"COPY_SP", 0x00000048#32, 0xFFFFFCFF#32⟩,
   ⟨"READ_SP", 0x000000BE#32, 0xFFFFFCFF#32⟩,
   ⟨"WRITE_SP", 0x0000004E#32, 0xFFFFFCFF#32⟩]

/-- The constraint column of R96: `LEN <= 9` on rows whose mask leaves `LEN` free, `AM != 3` on rows whose mask
leaves `AM` free, none on the others. -/
def OpRow.constraint (r : OpRow) (w : Word) : Bool :=
  (lenOf r.mask != 0#4 || lenOk (lenOf w)) && (amOf r.mask != 0#2 || amOf w != 3#2)

/-- R96: a word selects a row when `w & mask = match` and the row's constraint holds. -/
def OpRow.selects (r : OpRow) (w : Word) : Bool := (w &&& r.mask == r.bits) && r.constraint w

/-- The mnemonic of an instruction, as the operation map spells it. -/
def Instr.mnemonic : Instr → String
  | .nop => "NOP"
  | .init => "INIT"
  | .rbit => "RBIT"
  | .wbit _ => "WBIT"
  | .rbyte => "RBYTE"
  | .wbyte _ => "WBYTE"
  | .rbytes _ => "RBYTES"
  | .wbytes _ => "WBYTES"
  | .crc _ => "CRC"
  | .crcchk _ => "CRCCHK"
  | .readRom => "READ_ROM"
  | .matchRom => "MATCH_ROM"
  | .skipRom => "SKIP_ROM"
  | .searchRom => "SEARCH_ROM"
  | .alarmSearch => "ALARM_SEARCH"
  | .convertT _ => "CONVERT_T"
  | .recallE2 _ => "RECALL_E2"
  | .readPower _ => "READ_POWER"
  | .copySp _ => "COPY_SP"
  | .readSp _ => "READ_SP"
  | .writeSp _ => "WRITE_SP"

/-- The instruction the decoder reads from a table word of `nbits` bits (the command word is one 32-bit word). -/
def decodeTableWord (nbits w : Nat) : Option Instr :=
  if nbits ≤ 32 ∧ w < 2 ^ 32 then
    (match decode (BitVec.ofNat 32 w) with
     | .ok i => some i
     | .error _ => none)
  else none

end Sys2Proof
end

