-- ==== Sys2Proof/Config.lean ====
section
/-! DEFINITION. What is fixed for an instance of OWM (spec 00_scope.md R5, R6, R32): the timing profile, the two
10 ms intervals, the recall budget, the configuration patterns; and the free values, which nothing constrains. -/

namespace Sys2Proof

/-- The nine intervals of a timing profile, in nanoseconds, under their letters (R5, R121). -/
structure Profile where
  A : Nat
  B : Nat
  C : Nat
  D : Nat
  E : Nat
  F : Nat
  H : Nat
  I : Nat
  J : Nat
  deriving DecidableEq, Repr

namespace Profile

/-- The slot duration of a profile (R6). -/
def slot (P : Profile) : Nat := P.A + P.B

/-- R6: every interval positive and `A + B = C + D = A + E + F`. -/
def wellFormed (P : Profile) : Bool :=
  decide (0 < P.A ∧ 0 < P.B ∧ 0 < P.C ∧ 0 < P.D ∧ 0 < P.E ∧ 0 < P.F ∧ 0 < P.H ∧ 0 < P.I ∧ 0 < P.J
    ∧ P.A + P.B = P.C + P.D ∧ P.A + P.B = P.A + P.E + P.F)

/-- The standard-speed profile (R5, R121): H 480, I 70, J 410, A 6, B 64, C 60, D 10, E 9, F 55 microseconds. -/
def std : Profile :=
  { A := 6000, B := 64000, C := 60000, D := 10000, E := 9000, F := 55000,
    H := 480000, I := 70000, J := 410000 }

/-- R5, U5: a clock period fits a profile and the two long intervals when it divides each of them. -/
def fitsClock (P : Profile) (tCopy tRecall clkNs : Nat) : Bool :=
  0 < clkNs && [P.A, P.B, P.C, P.D, P.E, P.F, P.H, P.I, P.J, tCopy, tRecall].all (· % clkNs == 0)

end Profile

namespace Config

/-- `PROFILE` of this hardware: `STD` (R5). DESIGN CHOICE, safe: log entry 12. -/
def profile : Profile := Profile.std

/-- A profile that R6 forbids does not build: the refusal R6 asks for, at elaboration. -/
theorem profile_wellFormed : profile.wellFormed = true := by decide

/-- `T_COPY`, 10 ms (R5). -/
def tCopy : Nat := 10000000

/-- `T_RECALL`, 10 ms (R5). -/
def tRecall : Nat := 10000000

/-- R218: the total number of read slots of a recall, floor(T / (A+E+F)) + 1. -/
def recallBudget (P : Profile) (t : Nat) : Nat := t / (P.A + P.E + P.F) + 1

/-- `RECALL_POLLS` of this hardware (R5, R218). -/
def recallPolls : Nat := recallBudget profile tRecall

/-- `CFG_PATTERNS`, index 0 to 3 for 9, 10, 11 and 12 bits (R5, R49). PRESUMED by the spec (G1): log entry 14. -/
def cfgPatterns : List Byte := [0x1F#8, 0x3F#8, 0x5F#8, 0x7F#8]

/-- R120, R132: the clock cycles a delay lasts at a given clock period. Log entry 13. -/
def delayCycles (clkNs t : Nat) : Nat := t / clkNs

/-- R231: the worst-case conversion latency a host waits, in nanoseconds, by `RES`. OWM itself never uses it (R300). -/
def conversionNs (res : BitVec 2) : Nat := 750000000 / 2 ^ (3 - res.toNat)

/-! Free values (log entries 2 and 7): constants without a body, applied to a counter in State. -/

/-- U1: the line level that the n-th unscripted look at the pins sees. -/
opaque freeOwIn : Nat → Bool

/-- U2: whether the n-th unscripted look at the pins sees a fault. -/
opaque freePinFault : Nat → Bool

/-- U2: the payload the n-th unscripted look at the pins sees. -/
opaque freePinErr : Nat → Byte

/-- U7: what `STG` holds after an operation. -/
opaque freeStg : Nat → BitVec 72

/-- U7: what `WMASK` holds after an operation. -/
opaque freeWmask : Nat → Word64

/-- U7: what `LASTPOS` holds after an operation. -/
opaque freeLastPos : Nat → Option Nat

/-- U7: what `ACC` holds after an operation. -/
opaque freeAcc : Nat → Byte

/-- U7: what `CRCW` holds after an operation. -/
opaque freeCrcw : Nat → Byte

/-- U7: what `TMR` holds after an operation. -/
opaque freeTmr : Nat → Nat

/-- U7: what the presence latch holds after an operation. -/
opaque freePresenceLatch : Nat → Option Bool

end Config

end Sys2Proof
end

