-- ==== Sys2Proof/Machine/State.lean ====
section
/-! DEFINITION. The state of OWM as plain data (spec 10_state.md R20 to R32, 46_command_fsm.md R243), what the outside
world can send it (R44), and the state after reset (R45). -/

namespace Sys2Proof.Machine

/-- What the pins show at one look: `ow_in`, `pin_fault`, `pin_err` (R44). -/
structure Pins where
  owIn     : Bool
  pinFault : Bool
  pinErr   : Byte
  deriving DecidableEq, Repr

/-- What the host can do (R40, R44, R290): apply `rst`, write or read a register. `off` is `reg_addr[5:2]`: bits 1:0
are 0 by construction of the port (R68). -/
inductive HostEvent where
  /-- `rst`. In a delay it comes `t` nanoseconds after the delay began, or at its end if the delay is shorter (R291);
  where no delay runs `t` means nothing. Log entry 18. -/
  | rst (t : Nat)
  | write (off : BitVec 4) (data : Word)
  | read (off : BitVec 4)
  deriving DecidableEq, Repr

/-- The outside world, in time order. Log entries 1 and 3. -/
inductive Input where
  /-- the answer to one look at the pins: a pin event or one sample of `AwaitHigh` -/
  | pins (p : Pins)
  /-- a host that waits for `BUSY = 0` (R103, R308): the event comes when OWM is idle -/
  | host (h : HostEvent)
  /-- the event comes at this very point, also in the middle of an operation (R41, R43, R291) -/
  | during (h : HostEvent)
  deriving DecidableEq, Repr

/-- One event of the pin trace (R10, R126). -/
inductive PinEvent where
  /-- `L`, a `PinLow` -/
  | low
  /-- `Z`, a `PinRelease` -/
  | release
  /-- `S(b)`, a `PinSample` that returned `b` -/
  | sample (b : Bool)
  /-- `D(t)`, a `Delay` of `t` nanoseconds -/
  | delay (t : Nat)
  /-- `W`, an `AwaitHigh` that ended -/
  | awaited
  /-- `X(c)`, a faulted pin event -/
  | faulted (c : Byte)
  deriving DecidableEq, Repr

/-- The error kinds with their payloads (R260). -/
inductive OpError where
  | pinFault (c : Byte)
  | noDevice
  | timeout
  | checksumMismatch (c : Byte)
  | invalidConfig (v : Byte)
  | illegalCommand (opc : Byte)
  deriving DecidableEq, Repr

/-- The position inside a slot or inside the initialization sequence (R243). -/
inductive SlotPos where
  | low
  | rel
  | sample
  | tail
  deriving DecidableEq, Repr

/-- The three slots of a search triplet (R243): read true bits, read complements, write back. -/
inductive Triplet where
  | r1
  | r2
  | wb
  deriving DecidableEq, Repr

/-- The sequencer position `SEQ` (R26): the phase of R243 with the indices that phase has. `k` counts bytes, search
positions or polls, `j` counts bits. -/
inductive Seq where
  | idle
  | decode
  | check
  | waitHigh
  | rst (p : SlotPos)
  | txAddrCmd (j : Nat) (p : SlotPos)
  | txAddr (k j : Nat) (p : SlotPos)
  | txCmd (j : Nat) (p : SlotPos)
  | txData (k j : Nat) (p : SlotPos)
  | rxData (k j : Nat) (p : SlotPos)
  | srch (k : Nat) (t : Triplet) (p : SlotPos)
  | poll (k : Nat) (p : SlotPos)
  | hold
  | validate
  /-- `finish ok` (`none`) or the error end -/
  | complete (result : Option OpError)
  deriving DecidableEq, Repr

/-- The working state the host cannot read (R30), with the presence sample that R264 commits at the end of an
operation (log entry 8). -/
structure Hidden where
  /-- `STG`, the staging register: byte `k` in bits `8k+7:8k` -/
  stg      : BitVec 72
  /-- `WMASK`, the working copy of the conflict mask -/
  wmask    : Word64
  /-- `LASTPOS`, the highest set bit of `CONFLICT` at the start of the pass, or none -/
  lastPos  : Option Nat
  /-- `ACC`, the byte accumulator -/
  acc      : Byte
  /-- `CRCW`, the working CRC remainder -/
  crcw     : Byte
  /-- `TMR`, what is left of the running delay in nanoseconds -/
  tmr      : Nat
  /-- the presence sample of this operation's `InitSeq()`, if it was taken -/
  presence : Option Bool
  deriving DecidableEq, Repr

/-- The state of OWM (R20). -/
structure State where
  /-- `ADDR` (R21) -/
  addr       : Word64
  /-- `CONFLICT` (R22) -/
  conflict   : Word64
  /-- `DATA` (R23) -/
  data       : Byte
  /-- `CRC` (R24) -/
  crc        : Byte
  /-- `BUF[0..8]` (R25) -/
  buf        : Vector Byte 9
  /-- `CMD`, the last accepted word (R28) -/
  cmd        : Word
  /-- `STATUS.DONE` (R29) -/
  done       : Bool
  /-- `STATUS.ERR` (R29) -/
  err        : Bool
  /-- `STATUS.PRESENCE` (R27) -/
  presence   : Bool
  /-- `STATUS.BIT` (R27) -/
  bit        : Bool
  /-- `STATUS.LAST` (R27) -/
  last       : Bool
  /-- `STATUS.ECODE` (R29) -/
  ecode      : BitVec 4
  /-- `STATUS.RES` (R27) -/
  res        : BitVec 2
  /-- `STATUS.EINFO` (R29) -/
  einfo      : Byte
  /-- `SEQ` (R26); `STATUS.BUSY` and `STATUS.WAITHIGH` are views of it -/
  seq        : Seq
  /-- the hidden working state (R30) -/
  hid        : Hidden
  /-- the output `ow_drive_low` (R44) -/
  owDriveLow : Bool
  /-- the output `reg_rdata` (R44); log entry 9 -/
  rdata      : Word
  /-- the pin trace of the running or last operation, NEWEST FIRST (R10), also of one that `rst` abandoned; log entry
  10 -/
  trace      : List PinEvent
  /-- the model's own: what the outside world will do; log entry 1 -/
  inputs     : List Input
  /-- the model's own: the index of the next free value; log entry 2 -/
  freeIx     : Nat
  deriving DecidableEq, Repr

/-- The hidden state the model names for reset; the spec leaves it unspecified (R45). DESIGN CHOICE, unsafe in form:
log entry 6. -/
def Hidden.reset : Hidden :=
  { stg := 0#72, wmask := 0#64, lastPos := none, acc := 0#8, crcw := 0#8, tmr := 0, presence := none }

/-- The machine right after `rst` (R45, R290). -/
def State.reset : State :=
  { addr := 0#64, conflict := 0#64, data := 0#8, crc := 0#8, buf := #v[0#8, 0#8, 0#8, 0#8, 0#8, 0#8, 0#8, 0#8, 0#8],
    cmd := 0#32, done := false, err := false, presence := false, bit := false, last := false, ecode := 0#4,
    res := 0#2, einfo := 0#8, seq := .idle, hid := Hidden.reset, owDriveLow := false, rdata := 0#32, trace := [],
    inputs := [], freeIx := 0 }

/-- The ways the machine stops. There is none: OWM has no exceptions, every error ends an operation in a next state
(R262), and a line stuck low is a state that waits (R123). -/
inductive Fault where
  deriving DecidableEq, Repr

/-- The ways the model declines. -/
inductive Refusal where
  /-- raised by an arm of exec whose instruction has no meaning yet; safe. No arm raises it. -/
  | notModelled (mnemonic : String)
  deriving DecidableEq, Repr

end Sys2Proof.Machine
end

