-- ==== Sys2Proof/Machine/Operands.lean ====
section
/-! DEFINITION. The operands of the operations (spec 30_encoding.md R92): `ADDR` as bytes, prefixes of `BUF`, the byte
assembly of the codec, the configuration byte; and the bit and byte helpers they use. -/

namespace Sys2Proof.Machine

/-- R8: the 8 bytes of a 64-bit address, byte 0 the least significant. -/
def bytesOf (a : Word64) : List Byte :=
  [a.extractLsb' 0 8, a.extractLsb' 8 8, a.extractLsb' 16 8, a.extractLsb' 24 8,
   a.extractLsb' 32 8, a.extractLsb' 40 8, a.extractLsb' 48 8, a.extractLsb' 56 8]

/-- R62, R170: the 64-bit value of bytes in index order, `sum of byte[k] * 2^(8k)`; bytes past the eighth fall out. -/
def addrOfBytes : List Byte → Word64
  | [] => 0#64
  | b :: r => (addrOfBytes r <<< 8) ||| b.setWidth 64

/-- `BUF[k]`. -/
def State.bufByte (s : State) (k : Nat) : Byte := s.buf.toList.getD k 0#8

/-- `BUF[0..n-1]` (R149, R158). -/
def State.bufPrefix (s : State) (n : Nat) : List Byte := s.buf.toList.take n

/-- `BUF` with `bytes` stored from index `start` on; every other byte keeps its value (R25, R148). -/
def storeBytes (buf : Vector Byte 9) (start : Nat) (bytes : List Byte) : Vector Byte 9 :=
  Vector.ofFn fun i =>
    if start ≤ i.val ∧ i.val < start + bytes.length then bytes.getD (i.val - start) 0#8 else buf[i]

/-- R140: `{b, ACC[7:1]}`, shift right by one with the new bit into bit 7. -/
def shiftIn (b : Bool) (acc : Byte) : Byte := BitVec.ofBool b ++ acc.extractLsb' 1 7

/-- R11, R189: bit `i` of `a` set to `b`. -/
def setBit (a : Word64) (i : Nat) (b : Bool) : Word64 :=
  if b then a ||| BitVec.twoPow 64 i else a &&& ~~~(BitVec.twoPow 64 i)

/-- R11: the highest set bit among the `n` lowest bits of `m`, or none. -/
def highestBelow (m : Word64) : Nat → Option Nat
  | 0 => none
  | n + 1 => if m.getLsbD n then some n else highestBelow m n

/-- R188: `last`, the index of the highest set bit of `M`, or none when `M = 0`. -/
def highestSet (m : Word64) : Option Nat := highestBelow m 64

/-- R225: the index of the matching configuration pattern, all 8 bits compared. -/
def configIndex (v : Byte) : Option (BitVec 2) :=
  (Config.cfgPatterns.findIdx? (· == v)).map (BitVec.ofNat 2)

/-- R49: the byte that encodes a resolution. -/
def configByte (i : BitVec 2) : Byte := Config.cfgPatterns.getD i.toNat 0#8

/-- R97: the command byte an addressing step writes before a function command (R210). -/
def addrCmdByte : AddrMode → Byte
  | .noAddr => 0x00#8
  | .skipAddr => 0xCC#8
  | .matchAddr => 0x55#8

/-- `STG` with byte `k` replaced (R142). -/
def stgStore (stg : BitVec 72) (k : Nat) (b : Byte) : BitVec 72 :=
  (stg &&& ~~~(0xFF#72 <<< (8 * k))) ||| (b.setWidth 72 <<< (8 * k))

/-- Byte `k` of `STG`. -/
def stgByte (stg : BitVec 72) (k : Nat) : Byte := stg.extractLsb' (8 * k) 8

/-- Bytes `0..n-1` of `STG`. -/
def stgBytes (stg : BitVec 72) (n : Nat) : List Byte := (List.range n).map (stgByte stg)

end Sys2Proof.Machine
end

