-- ==== Sys2Proof/Machine/Flags.lean ====
section
/-! DEFINITION. The status register (spec 10_state.md R27, R29), the error codes (60_exceptions.md R260) and every write
of a flag. -/

namespace Sys2Proof.Machine

/-- R27: `BUSY = (SEQ != IDLE)`. -/
def Seq.busy : Seq → Bool
  | .idle => false
  | _ => true

/-- R27: `WAITHIGH = (SEQ is in AwaitHigh)`. -/
def Seq.waiting : Seq → Bool
  | .waitHigh => true
  | _ => false

/-- `STATUS.BUSY`. -/
def State.busy (s : State) : Bool := s.seq.busy

/-- `STATUS.WAITHIGH`. -/
def State.waitHigh (s : State) : Bool := s.seq.waiting

/-- R29: the 32 bits of `STATUS`, from bit 31 down; reserved bits read 0. -/
def State.statusWord (s : State) : Word :=
  0#8 ++ s.einfo ++ 0#2 ++ s.res ++ s.ecode ++ 0#1 ++ BitVec.ofBool s.waitHigh ++ BitVec.ofBool s.last
    ++ BitVec.ofBool s.bit ++ BitVec.ofBool s.presence ++ BitVec.ofBool s.err ++ BitVec.ofBool s.done
    ++ BitVec.ofBool s.busy

/-- R260: `ECODE` of an error kind. -/
def OpError.code : OpError → BitVec 4
  | .pinFault _ => 1#4
  | .noDevice => 2#4
  | .timeout => 3#4
  | .checksumMismatch _ => 4#4
  | .invalidConfig _ => 5#4
  | .illegalCommand _ => 6#4

/-- R260: `EINFO` of an error kind. -/
def OpError.info : OpError → Byte
  | .pinFault c => c
  | .noDevice => 0#8
  | .timeout => 0#8
  | .checksumMismatch c => c
  | .invalidConfig v => v
  | .illegalCommand opc => opc

/-- R240: acceptance clears `DONE` and the error indication and no other flag. -/
def State.clearIndication (s : State) : State :=
  { s with done := false, err := false, ecode := 0#4, einfo := 0#8 }

/-- R242: the indication of a successful end. -/
def State.indicateOk (s : State) : State :=
  { s with done := true, err := false, ecode := 0#4, einfo := 0#8 }

/-- R262: the indication of an error end. -/
def State.indicateError (e : OpError) (s : State) : State :=
  { s with done := true, err := true, ecode := e.code, einfo := e.info }

/-- R264: `PRESENCE` takes the sample of this operation's `InitSeq()` if it was taken. -/
def State.commitPresence (s : State) : State :=
  { s with presence := s.hid.presence.getD s.presence }

/-- R128: `BIT <- b`. -/
def State.setBitFlag (b : Bool) (s : State) : State := { s with bit := b }

/-- R190: `ADDR <- a`, `CONFLICT <- WMASK`, `LAST <- (WMASK = 0)`. -/
def State.commitSearch (a wmask : Word64) (s : State) : State :=
  { s with addr := a, conflict := wmask, last := wmask == 0#64 }

/-- R224: `BUF[0..8] <- r`, `RES <- idx`. -/
def State.commitScratchpad (r : List Byte) (idx : BitVec 2) (s : State) : State :=
  { s with buf := storeBytes s.buf 0 r, res := idx }

end Sys2Proof.Machine
end

