-- ==== Sys2Proof/Machine/HostPort.lean ====
section
/-! DEFINITION. The host's register map (spec 10_state.md R40 to R43) and the notation of host programs
(30_encoding.md R103, R104). Register numbers are word offsets: byte offset divided by 4. -/

namespace Sys2Proof.Machine

/-- `CMD`, byte offset 0x00 (R40). -/
def offCmd : BitVec 4 := 0#4
/-- `STATUS`, byte offset 0x04. -/
def offStatus : BitVec 4 := 1#4
/-- `DATA`, byte offset 0x08. -/
def offData : BitVec 4 := 2#4
/-- `CRC`, byte offset 0x0C. -/
def offCrc : BitVec 4 := 3#4
/-- `ADDR_LO`, byte offset 0x10. -/
def offAddrLo : BitVec 4 := 4#4
/-- `ADDR_HI`, byte offset 0x14. -/
def offAddrHi : BitVec 4 := 5#4
/-- `CONFLICT_LO`, byte offset 0x18. -/
def offConflictLo : BitVec 4 := 6#4
/-- `CONFLICT_HI`, byte offset 0x1C. -/
def offConflictHi : BitVec 4 := 7#4
/-- `BUF0`, byte offset 0x20. -/
def offBuf0 : BitVec 4 := 8#4
/-- `BUF1`, byte offset 0x24. -/
def offBuf1 : BitVec 4 := 9#4
/-- `BUF2`, byte offset 0x28. -/
def offBuf2 : BitVec 4 := 10#4

/-- R25: a word as its four bytes, little-endian. -/
def wordBytes (w : Word) : List Byte :=
  [w.extractLsb' 0 8, w.extractLsb' 8 8, w.extractLsb' 16 8, w.extractLsb' 24 8]

/-- R40, R42: what a read of an offset returns. An unmapped offset reads 0. -/
def State.hostRead (s : State) (off : BitVec 4) : Word :=
  if off = offCmd then s.cmd
  else if off = offStatus then s.statusWord
  else if off = offData then 0#24 ++ s.data
  else if off = offCrc then 0#24 ++ s.crc
  else if off = offAddrLo then s.addr.extractLsb' 0 32
  else if off = offAddrHi then s.addr.extractLsb' 32 32
  else if off = offConflictLo then s.conflict.extractLsb' 0 32
  else if off = offConflictHi then s.conflict.extractLsb' 32 32
  else if off = offBuf0 then s.bufByte 3 ++ s.bufByte 2 ++ s.bufByte 1 ++ s.bufByte 0
  else if off = offBuf1 then s.bufByte 7 ++ s.bufByte 6 ++ s.bufByte 5 ++ s.bufByte 4
  else if off = offBuf2 then 0#24 ++ s.bufByte 8
  else 0#32

/-- R40, R42: what a write of an offset other than `CMD` stores when OWM is idle. `STATUS`, `CRC` and unmapped
offsets ignore it. -/
def State.storeReg (s : State) (off : BitVec 4) (w : Word) : State :=
  if off = offData then { s with data := w.extractLsb' 0 8 }
  else if off = offAddrLo then { s with addr := s.addr.extractLsb' 32 32 ++ w }
  else if off = offAddrHi then { s with addr := w ++ s.addr.extractLsb' 0 32 }
  else if off = offConflictLo then { s with conflict := s.conflict.extractLsb' 32 32 ++ w }
  else if off = offConflictHi then { s with conflict := w ++ s.conflict.extractLsb' 0 32 }
  else if off = offBuf0 then { s with buf := storeBytes s.buf 0 (wordBytes w) }
  else if off = offBuf1 then { s with buf := storeBytes s.buf 4 (wordBytes w) }
  else if off = offBuf2 then { s with buf := storeBytes s.buf 8 [w.extractLsb' 0 8] }
  else s

/-- R43: a read puts the register's value on `reg_rdata` and has no other effect. -/
def State.readReg (s : State) (off : BitVec 4) : State := { s with rdata := s.hostRead off }

/-- Adds one event to the pin trace (R10). -/
def State.emit (e : PinEvent) (s : State) : State := { s with trace := e :: s.trace }

/-- A delay cut short after `t` nanoseconds: that much of it is in the pin trace, and nothing if it had only begun. -/
def State.emitPart (t : Nat) (s : State) : State := if t = 0 then s else s.emit (.delay t)

/-- R45, R290, R291: every register at its reset value, whatever the phase. The outside world goes on, and free values
keep being fresh. What the pins have shown stays shown. -/
def State.afterRst (s : State) : State :=
  { State.reset with inputs := s.inputs, freeIx := s.freeIx, trace := s.trace }

/-- R291: `rst` abandons an operation, `t` nanoseconds into a delay of which `left` nanoseconds were to come (0 where no
delay runs). The trace is the trace so far, the part of the delay that has passed included. -/
def State.abandon (left t : Nat) (s : State) : State := (s.emitPart (min t left)).afterRst

/-- R41, R43, R291: a host event that meets an operation in progress, `left` nanoseconds of a delay still to come. A
write is ignored. -/
def State.busyEvent (left : Nat) (h : HostEvent) (s : State) : State :=
  match h with
  | .rst t => s.abandon left t
  | .write _ _ => s
  | .read off => s.readReg off

/-! Host programs (R103, R104): each line as the inputs it stands for. -/

/-- `SET ADDR, value`: two words, low first (R103). -/
def setAddr (a : Word64) : List Input :=
  [.host (.write offAddrLo (a.extractLsb' 0 32)), .host (.write offAddrHi (a.extractLsb' 32 32))]

/-- `SET CONFLICT, value`: two words, low first (R103). -/
def setConflict (m : Word64) : List Input :=
  [.host (.write offConflictLo (m.extractLsb' 0 32)), .host (.write offConflictHi (m.extractLsb' 32 32))]

/-- `SET BUF, ...`: three words (R103). -/
def setBuf (w0 w1 w2 : Word) : List Input :=
  [.host (.write offBuf0 w0), .host (.write offBuf1 w1), .host (.write offBuf2 w2)]

/-- `SET DATA, value` (R103). -/
def setData (w : Word) : List Input := [.host (.write offData w)]

/-- `GET reg` (R103). -/
def getReg (off : BitVec 4) : List Input := [.host (.read off)]

/-- A mnemonic line: the command word of the operation written to `CMD` (R103). The next `host` event of the list comes
when `BUSY = 0` again. -/
def runLine (i : Instr) : List Input := [.host (.write offCmd (encode i))]

/-- `SEARCH_FIRST` (R104). -/
def searchFirst : List Input := setConflict 0#64 ++ runLine .searchRom
/-- `SEARCH_NEXT` (R104). -/
def searchNext : List Input := runLine .searchRom
/-- `ALARM_FIRST` (R104). -/
def alarmFirst : List Input := setConflict 0#64 ++ runLine .alarmSearch
/-- `RESET_PULSE` (R104). -/
def resetPulse : List Input := runLine .init
/-- `SELECT addr` (R104). -/
def selectAddr (a : Word64) : List Input := setAddr a ++ runLine .matchRom

end Sys2Proof.Machine
end

