-- ==== Sys2Proof/Machine/Ops.lean ====
section
/-! DEFINITION. The operations every meaning is built from (spec 46_command_fsm.md R240 to R251, 60_exceptions.md R262,
40_timing_primitives.md R120, R126): acceptance, the two ends of an operation, the pin events, the delay, and the frame
that runs an operation from acceptance to its end.

A meaning is written as the spec writes it, as a procedure over the state that may end early: `Op`. What ends it early
is an error (R262), a line that is still low when the known answers end (R123), or `rst` (R291). -/

namespace Sys2Proof.Machine

/-- Why a procedure does not return. -/
inductive Stop where
  /-- `raise E(info)` (R262) -/
  | raised (e : OpError)
  /-- still in `AwaitHigh` when the answers the state holds are used up (R123); log entry 4 -/
  | waiting
  /-- `rst` abandoned the operation (R291) -/
  | rst
  deriving DecidableEq, Repr

/-- A procedure of the sequencer: from a state to a value and a state, or to an early end and a state. -/
abbrev Op (α : Type) := EStateM Stop State α

/-- U7: working state nothing constrains. Log entry 7. -/
def Hidden.free (n : Nat) : Hidden :=
  { stg := Config.freeStg n, wmask := Config.freeWmask n, lastPos := Config.freeLastPos n, acc := Config.freeAcc n,
    crcw := Config.freeCrcw n, tmr := Config.freeTmr n, presence := Config.freePresenceLatch n }

/-- R240: acceptance. `CMD` takes the word, the indication is cleared, `SEQ` leaves `IDLE`; every other register and
flag is untouched. The presence latch, the delay counter and the pin trace of this operation start empty. -/
def State.accept (w : Word) (s : State) : State :=
  { s.clearIndication with
      cmd := w, seq := .decode, hid := { s.hid with presence := none, tmr := 0 }, trace := [] }

/-- What both ends of an operation do besides the indication: the line released, `SEQ` idle, `PRESENCE` committed
(R264), the working state unspecified from here on (R30). -/
def State.settleIdle (s : State) : State :=
  { s.commitPresence with
      owDriveLow := false, seq := .idle, hid := Hidden.free s.freeIx, freeIx := s.freeIx + 1 }

/-- R242: `finish ok`, the result registers already committed. -/
def State.finishOk (s : State) : State := s.settleIdle.indicateOk

/-- R262: `raise E(info)`, the one way an operation fails (OWM's counterpart of taking an exception). Its counterpart of
a return is the next acceptance, which clears the indication (R240, R267). -/
def State.raiseError (e : OpError) (s : State) : State := s.settleIdle.indicateError e

/-- `raise E(info)` inside a procedure. -/
def raise {α : Type} (e : OpError) : Op α := fun s => .error (.raised e) s

/-- The pin trace in time order (R10). -/
def State.pinTrace (s : State) : List PinEvent := s.trace.reverse

/-- The host events that come at this point of an operation, with a delay of `left` nanoseconds to come (0 at a pin
event), taken in order: writes are ignored, reads answer, `rst` abandons (R41, R43, R291). -/
def settleFrom (left : Nat) : List Input → State → EStateM.Result Stop State Unit
  | .during (.rst t) :: rest, s => .error .rst ({ s with inputs := rest }.abandon left t)
  | .during (.write _ _) :: rest, s => settleFrom left rest { s with inputs := rest }
  | .during (.read off) :: rest, s => settleFrom left rest ({ s with inputs := rest }.readReg off)
  | _, s => .ok () s

/-- `settleFrom` on the inputs the state holds. -/
def settle (left : Nat) : Op Unit := fun s => settleFrom left s.inputs s

/-- U1, U2: what the pins show when no answer is scripted. Log entry 2. -/
def Pins.free (n : Nat) : Pins :=
  { owIn := Config.freeOwIn n, pinFault := Config.freePinFault n, pinErr := Config.freePinErr n }

/-- One look at the pins: the next scripted answer, or a free one where the script has none. -/
def State.look (s : State) : Pins × State :=
  match s.inputs with
  | .pins p :: rest => (p, { s with inputs := rest })
  | _ => (Pins.free s.freeIx, { s with freeIx := s.freeIx + 1 })

/-- R126: a pin event. `pin_fault` is looked at first; if it is 1 the event does not count and the trace ends with
`X(c)`. Otherwise `act` is applied with the level of the line. -/
def pinEvent (act : Bool → State → State) : Op Bool := fun s =>
  match settle 0 s with
  | .error e t => .error e t
  | .ok _ t =>
    let p := t.look.1
    let u := t.look.2
    if p.pinFault then .error (.raised (.pinFault p.pinErr)) (u.emit (.faulted p.pinErr))
    else .ok p.owIn (act p.owIn u)

/-- What a `PinLow` does: the line driven low (R9). -/
def State.driveLow (s : State) : State := { s with owDriveLow := true }.emit .low

/-- What a `PinRelease` does: the line released (R9, R120). -/
def State.releaseLine (s : State) : State := { s with owDriveLow := false }.emit .release

/-- `PinLow()` (R9). -/
def pinLow : Op Unit := do
  let _ ← pinEvent fun _ s => s.driveLow
  pure ()

/-- `PinRelease()` (R9, R120). -/
def pinRelease : Op Unit := do
  let _ ← pinEvent fun _ s => s.releaseLine
  pure ()

/-- `PinSample()` (R9). -/
def pinSample : Op Bool := pinEvent fun b s => s.emit (.sample b)

/-- `Delay(t)` (R9, R120): exactly `t` nanoseconds, cannot fail; host events may come meanwhile. -/
def delay (t : Nat) : Op Unit := do
  settle t
  modify (State.emit (.delay t))

/-- R123 on the inputs given: samples until one reads 1. -/
def awaitFrom : List Input → State → EStateM.Result Stop State Unit
  | .during (.rst t) :: rest, s => .error .rst ({ s with inputs := rest }.abandon 0 t)
  | .during (.write _ _) :: rest, s => awaitFrom rest { s with inputs := rest }
  | .during (.read off) :: rest, s => awaitFrom rest ({ s with inputs := rest }.readReg off)
  | .pins p :: rest, s =>
    if p.pinFault then
      .error (.raised (.pinFault p.pinErr)) ({ s with inputs := rest }.emit (.faulted p.pinErr))
    else if p.owIn then .ok () ({ s with inputs := rest, seq := .rst .low }.emit .awaited)
    else awaitFrom rest { s with inputs := rest }
  | _, s => .error .waiting s

/-- `AwaitHigh()` (R123), with `WAITHIGH = 1` while it lasts. There is no bound. -/
def awaitHigh : Op Unit := fun s => awaitFrom s.inputs { s with seq := .waitHigh }

/-- R242, R250, R262, R291: from the state in which a command word was accepted to the end of the operation, `body`
being the operation's procedure. It ends in success, in an error, abandoned by `rst`, or it has not ended yet. -/
def State.operate (w : Word) (body : Op Unit) (s : State) : State :=
  match body (s.accept w) with
  | .ok _ t => t.finishOk
  | .error (.raised e) t => t.raiseError e
  | .error .waiting t => t
  | .error .rst t => t

/-- An operation as one step (R251). -/
def operation (w : Word) (body : Op Unit) (s : State) : Host.Outcome State Fault Refusal :=
  .next (s.operate w body)

/-- R91, R148, R149, R158, R159: an operation with a count, `IllegalCommand` if the count is over 9. -/
def withCount (i : Instr) (n : BitVec 4) (body : Op Unit) : Op Unit :=
  if lenOk n then body else raise (.illegalCommand i.opc)

end Sys2Proof.Machine
end

