-- ==== Sys2Proof/Machine/Fsm.lean ====
section
/-! DEFINITION. `NOP` and the end of an illegal command word (spec 46_command_fsm.md R244, R245; 30_encoding.md R100). -/

namespace Sys2Proof.Machine

/-- The procedure of `NOP` (R244): no pin event, no register. -/
def nopBody : Op Unit := pure ()

/-- `NOP` (R244). -/
def execNop (s : State) : Host.Outcome State Fault Refusal := operation (encode .nop) nopBody s

/-- R100, R245: an illegal word is accepted, performs no pin event, changes no result register, and ends with
`IllegalCommand`, `EINFO = w[7:0]`. -/
def rejectWord (w : Word) (s : State) : Host.Outcome State Fault Refusal :=
  operation w (raise (.illegalCommand (opcOf w))) s

end Sys2Proof.Machine
end

