-- ==== Sys2Proof/Machine/Timing.lean ====
section
/-! DEFINITION. The timing primitives (spec 40_timing_primitives.md): `InitSeq`, `ReadBit`, `WriteBit` over any profile,
and the operations `INIT`, `RBIT`, `WBIT`. -/

namespace Sys2Proof.Machine

/-- R264: the presence sample is kept for the end of the operation. -/
def recordPresence (p : Bool) : Op Unit :=
  modify fun s => { s with hid := { s.hid with presence := some p } }

/-- `InitSeq()` (R122): the reset pulse and the presence sample; true when a device is present. -/
def initSeq (P : Profile) : Op Bool := do
  awaitHigh
  pinLow
  delay P.H
  pinRelease
  delay P.I
  let p ← pinSample
  recordPresence (!p)
  delay P.J
  pure (!p)

/-- `ReadBit()` (R124): the value is whatever the line shows at the sample. -/
def readBit (P : Profile) : Op Bool := do
  pinLow
  delay P.A
  pinRelease
  delay P.E
  let b ← pinSample
  delay P.F
  pure b

/-- How long the master holds the line low in a write slot (R125). -/
def writeLow (P : Profile) (b : Bool) : Nat := if b then P.A else P.C

/-- How long a write slot goes on after the release (R125). -/
def writeHigh (P : Profile) (b : Bool) : Nat := if b then P.B else P.D

/-- `WriteBit(b)` (R125): nothing is sampled. -/
def writeBit (P : Profile) (b : Bool) : Op Unit := do
  pinLow
  delay (writeLow P b)
  pinRelease
  delay (writeHigh P b)

/-- The procedure of `INIT` (R127): absence is not an error. -/
def initBody : Op Unit := do
  let _ ← initSeq Config.profile
  pure ()

/-- The procedure of `RBIT` (R128). -/
def rbitBody : Op Unit := do
  let b ← readBit Config.profile
  modify (State.setBitFlag b)

/-- The procedure of `WBIT` (R129). -/
def wbitBody (b : Bool) : Op Unit := writeBit Config.profile b

/-- `INIT` (R127). -/
def execInit (s : State) : Host.Outcome State Fault Refusal := operation (encode .init) initBody s

/-- `RBIT` (R128). -/
def execRbit (s : State) : Host.Outcome State Fault Refusal := operation (encode .rbit) rbitBody s

/-- `WBIT b` (R129). -/
def execWbit (b : Bool) (s : State) : Host.Outcome State Fault Refusal :=
  operation (encode (.wbit b)) (wbitBody b) s

end Sys2Proof.Machine
end

