-- ==== Sys2Proof/Machine/Codec.lean ====
section
/-! DEFINITION. The bit-serial codec (spec 41_codec.md): bytes least-significant bit first, sequences in index order, and
the operations `RBYTE`, `WBYTE`, `RBYTES`, `WBYTES`. -/

namespace Sys2Proof.Machine

/-- `n` read slots shifted into `acc` one after the other (R140). -/
def readBits : Nat → Byte → Op Byte
  | 0, acc => pure acc
  | n + 1, acc => do
    let b ← readBit Config.profile
    readBits n (shiftIn b acc)

/-- `ReadByte()` (R140). -/
def readByte : Op Byte := readBits 8 0#8

/-- Write slots for the bits given, in order. -/
def writeBits : List Bool → Op Unit
  | [] => pure ()
  | b :: r => do
    writeBit Config.profile b
    writeBits r

/-- The bits of a byte, bit 0 first (R60). -/
def bitsOf (v : Byte) : List Bool := (List.range 8).map fun j => v.getLsbD j

/-- `WriteByte(v)` (R141). -/
def writeByte (v : Byte) : Op Unit := writeBits (bitsOf v)

/-- `BusRead(n)` (R142): the first byte received stands first. -/
def busRead : Nat → Op (List Byte)
  | 0 => pure []
  | n + 1 => do
    let v ← readByte
    let r ← busRead n
    pure (v :: r)

/-- `BusWrite(bytes)` (R143). -/
def busWrite : List Byte → Op Unit
  | [] => pure ()
  | v :: r => do
    writeByte v
    busWrite r

/-- The procedure of `RBYTE` (R146). -/
def rbyteBody : Op Unit := do
  let v ← readByte
  modify fun s => { s with data := v }

/-- The procedure of `WBYTE` (R147). -/
def wbyteBody (v : Byte) : Op Unit := writeByte v

/-- The procedure of `RBYTES` (R148): bytes `n..8` of `BUF` keep their values. -/
def rbytesBody (n : Nat) : Op Unit := do
  let r ← busRead n
  modify fun s => { s with buf := storeBytes s.buf 0 r }

/-- The procedure of `WBYTES` (R149). -/
def wbytesBody (n : Nat) : Op Unit := do
  let s ← get
  busWrite (s.bufPrefix n)

/-- `RBYTE` (R146). -/
def execRbyte (s : State) : Host.Outcome State Fault Refusal := operation (encode .rbyte) rbyteBody s

/-- `WBYTE imm8` (R147). -/
def execWbyte (imm8 : Byte) (s : State) : Host.Outcome State Fault Refusal :=
  operation (encode (.wbyte imm8)) (wbyteBody imm8) s

/-- `RBYTES n` (R148). -/
def execRbytes (n : BitVec 4) (s : State) : Host.Outcome State Fault Refusal :=
  operation (encode (.rbytes n)) (withCount (.rbytes n) n (rbytesBody n.toNat)) s

/-- `WBYTES n` (R149). -/
def execWbytes (n : BitVec 4) (s : State) : Host.Outcome State Fault Refusal :=
  operation (encode (.wbytes n)) (withCount (.wbytes n) n (wbytesBody n.toNat)) s

end Sys2Proof.Machine
end

