-- ==== Sys2Proof/Machine/Checksum.lean ====
section
/-! DEFINITION. The CRC8 unit (spec 42_crc8.md) and the operations `CRC`, `CRCCHK`. -/

namespace Sys2Proof.Machine

/-- One shift step of R155: shift right by one; XOR with 0x8C when the bit shifted out is 1. -/
def crcShift (c : Byte) : Byte :=
  if c.getLsbD 0 then (c >>> 1) ^^^ 0x8C#8 else c >>> 1

/-- `n` shift steps. -/
def crcShifts : Nat → Byte → Byte
  | 0, c => c
  | n + 1, c => crcShifts n (crcShift c)

/-- One byte of R155: XOR the byte in, then 8 shift steps. -/
def crcByte (c v : Byte) : Byte := crcShifts 8 (c ^^^ v)

/-- The remainder after `data`, from remainder `c`. -/
def crcFrom (c : Byte) (data : List Byte) : Byte := data.foldl crcByte c

/-- `Crc8(data)` (R155, R156): initial remainder 0, no final XOR. -/
def crc8 (data : List Byte) : Byte := crcFrom 0#8 data

/-- One data bit of the bit-serial form of R155, the one `CRCW` runs while bits arrive. -/
def crcBit (c : Byte) (d : Bool) : Byte :=
  if xor (c.getLsbD 0) d then (c >>> 1) ^^^ 0x8C#8 else c >>> 1

/-- `Check(data)` (R160). -/
def checkCrc (data : List Byte) : Op Unit :=
  if crc8 data = 0#8 then pure () else raise (.checksumMismatch (crc8 data))

/-- The procedure of `CRC` (R158). -/
def crcBody (n : Nat) : Op Unit :=
  modify fun s => { s with crc := crc8 (s.bufPrefix n) }

/-- The procedure of `CRCCHK` (R159). -/
def crcchkBody (n : Nat) : Op Unit := do
  let s ← get
  checkCrc (s.bufPrefix n)

/-- `CRC n` (R158). -/
def execCrc (n : BitVec 4) (s : State) : Host.Outcome State Fault Refusal :=
  operation (encode (.crc n)) (withCount (.crc n) n (crcBody n.toNat)) s

/-- `CRCCHK n` (R159). -/
def execCrcchk (n : BitVec 4) (s : State) : Host.Outcome State Fault Refusal :=
  operation (encode (.crcchk n)) (withCount (.crcchk n) n (crcchkBody n.toNat)) s

end Sys2Proof.Machine
end

