-- ==== Sys2Proof/Machine/Rom.lean ====
section
/-! DEFINITION. The addressing commands (spec 43_rom_commands.md): `READ_ROM`, `MATCH_ROM`, `SKIP_ROM`. -/

namespace Sys2Proof.Machine

/-- `Prologue()` (R173): the initialization sequence, `NoDevice` without presence. -/
def prologue : Op Unit := do
  let p ← initSeq Config.profile
  if p then pure () else raise .noDevice

/-- `Check(bytes(ADDR))` (R171), before any pin event. -/
def checkAddr : Op Unit := do
  let s ← get
  checkCrc (bytesOf s.addr)

/-- The addressing step of `SKIP_ROM` (R172). -/
def skipStep : Op Unit := do
  prologue
  writeByte (addrCmdByte .skipAddr)

/-- The addressing step of `MATCH_ROM` after its check (R171): the 8 bytes of `ADDR` verbatim. -/
def matchStep : Op Unit := do
  prologue
  writeByte (addrCmdByte .matchAddr)
  let s ← get
  busWrite (bytesOf s.addr)

/-- The procedure of `READ_ROM` (R170). -/
def readRomBody : Op Unit := do
  prologue
  writeByte 0x33#8
  let r ← busRead 8
  checkCrc r
  modify fun s => { s with addr := addrOfBytes r }

/-- The procedure of `MATCH_ROM` (R171). -/
def matchRomBody : Op Unit := do
  checkAddr
  matchStep

/-- The procedure of `SKIP_ROM` (R172). -/
def skipRomBody : Op Unit := skipStep

/-- `READ_ROM` (R170). -/
def execReadRom (s : State) : Host.Outcome State Fault Refusal := operation (encode .readRom) readRomBody s

/-- `MATCH_ROM` (R171). -/
def execMatchRom (s : State) : Host.Outcome State Fault Refusal := operation (encode .matchRom) matchRomBody s

/-- `SKIP_ROM` (R172). -/
def execSkipRom (s : State) : Host.Outcome State Fault Refusal := operation (encode .skipRom) skipRomBody s

end Sys2Proof.Machine
end

