-- ==== Sys2Proof/Machine/Search.lean ====
section
/-! DEFINITION. The ROM search engine (spec 44_rom_search.md): the tie-break, one pass, and the operations `SEARCH_ROM`,
`ALARM_SEARCH`. -/

namespace Sys2Proof.Machine

/-- R188: position `i` is below the turning point. -/
def belowLast (last : Option Nat) (i : Nat) : Bool :=
  match last with
  | none => false
  | some l => decide (i < l)

/-- R187, R188: the bit chosen at position `i`, `m` the mask at the start of the pass, from the two reads. -/
def searchChoice (m : Word64) (last : Option Nat) (i : Nat) (r1 r2 : Bool) : Bool :=
  if r1 || r2 then r1
  else if belowLast last i then !(m.getLsbD i)
  else last == some i

/-- R188: the working mask after position `i`: a new conflict above the turning point is remembered (c); the turning
point is used up, conflict or not (d). -/
def searchMask (last : Option Nat) (i : Nat) (r1 r2 : Bool) (wmask : Word64) : Word64 :=
  if last == some i then setBit wmask i false
  else if !(r1 || r2) && !(belowLast last i) then setBit wmask i true
  else wmask

/-- R190: `n` positions of the pass from position `i` on, with the address bits and the mask so far. -/
def searchFrom (m : Word64) (last : Option Nat) : Nat → Nat → Word64 → Word64 → Op (Word64 × Word64)
  | 0, _, a, wmask => pure (a, wmask)
  | n + 1, i, a, wmask => do
    let r1 ← readBit Config.profile
    let r2 ← readBit Config.profile
    if r1 && r2 then raise .noDevice
    else do
      writeBit Config.profile (searchChoice m last i r1 r2)
      searchFrom m last n (i + 1) (setBit a i (searchChoice m last i r1 r2)) (searchMask last i r1 r2 wmask)

/-- R190: the working state a pass starts from. -/
def startPass : Op Unit := modify fun s =>
  { s with hid := { s.hid with wmask := s.conflict, lastPos := highestSet s.conflict, stg := 0#72, crcw := 0#8 } }

/-- The procedure of a search pass with its command byte (R190, R191). -/
def searchBody (cmdByte : Byte) : Op Unit := do
  startPass
  let s ← get
  prologue
  writeByte cmdByte
  let r ← searchFrom s.conflict (highestSet s.conflict) 64 0 0#64 s.conflict
  checkCrc (bytesOf r.1)
  modify (State.commitSearch r.1 r.2)

/-- `SEARCH_ROM` (R190). -/
def execSearchRom (s : State) : Host.Outcome State Fault Refusal := operation (encode .searchRom) (searchBody 0xF0#8) s

/-- `ALARM_SEARCH` (R191). -/
def execAlarmSearch (s : State) : Host.Outcome State Fault Refusal :=
  operation (encode .alarmSearch) (searchBody 0xEC#8) s

end Sys2Proof.Machine
end

