-- ==== Sys2Proof/Machine/Function.lean ====
section
/-! DEFINITION. The function commands (spec 45_function_commands.md): the common frame and `CONVERT_T`, `RECALL_E2`,
`READ_POWER`, `COPY_SP`, `READ_SP`, `WRITE_SP`. -/

namespace Sys2Proof.Machine

/-- `ValidateConfig(v)` (R225). -/
def validateConfig (v : Byte) : Op (BitVec 2) :=
  match configIndex v with
  | some i => pure i
  | none => raise (.invalidConfig v)

/-- R210 step (0): the check of `ADDR`, with `MATCH` only. -/
def addrOperandCheck : AddrMode → Op Unit
  | .noAddr => pure ()
  | .skipAddr => pure ()
  | .matchAddr => checkAddr

/-- R210 step (1): the optional reset and addressing. -/
def addressing : AddrMode → Op Unit
  | .noAddr => pure ()
  | .skipAddr => skipStep
  | .matchAddr => matchStep

/-- R210: the frame of a function command: operand checks, addressing, command byte, body. -/
def functionFrame (am : AddrMode) (operandCheck : Op Unit) (cmdByte : Byte) (body : Op Unit) : Op Unit := do
  addrOperandCheck am
  operandCheck
  addressing am
  writeByte cmdByte
  body

/-- R215: at most `n` polls; a sampled 1 ends with success, exhaustion raises `Timeout`. -/
def pollFrom : Nat → Op Unit
  | 0 => raise .timeout
  | n + 1 => do
    let b ← readBit Config.profile
    if b then modify (State.setBitFlag true) else pollFrom n

/-- The procedure of `CONVERT_T` (R211): nothing after the command byte. -/
def convertTBody (am : AddrMode) : Op Unit := functionFrame am (pure ()) 0x44#8 (pure ())

/-- The procedure of `RECALL_E2` (R215). -/
def recallE2Body (am : AddrMode) : Op Unit := functionFrame am (pure ()) 0xB8#8 (pollFrom Config.recallPolls)

/-- What `READ_POWER` does after its command byte (R220). -/
def readPowerTail : Op Unit := do
  let b ← readBit Config.profile
  modify (State.setBitFlag b)

/-- The procedure of `READ_POWER` (R220). -/
def readPowerBody (am : AddrMode) : Op Unit := functionFrame am (pure ()) 0xB4#8 readPowerTail

/-- The procedure of `COPY_SP` (R222). -/
def copySpBody (am : AddrMode) : Op Unit := functionFrame am (pure ()) 0x48#8 (delay Config.tCopy)

/-- What `READ_SP` does after its command byte (R224): the CRC is checked first. -/
def readSpTail : Op Unit := do
  let r ← busRead 9
  checkCrc r
  let idx ← validateConfig (r.getD 4 0#8)
  modify (State.commitScratchpad r idx)

/-- The procedure of `READ_SP` (R224). -/
def readSpBody (am : AddrMode) : Op Unit := functionFrame am (pure ()) 0xBE#8 readSpTail

/-- The operand check of `WRITE_SP` (R210, R228): `BUF[4]`, before any pin event. -/
def bufConfigCheck : Op Unit := do
  let s ← get
  let _ ← validateConfig (s.bufByte 4)
  pure ()

/-- What `WRITE_SP` does after its command byte (R228): high trigger, low trigger, configuration register. -/
def writeSpTail : Op Unit := do
  let s ← get
  busWrite [s.bufByte 2, s.bufByte 3, s.bufByte 4]

/-- The procedure of `WRITE_SP` (R228). -/
def writeSpBody (am : AddrMode) : Op Unit := functionFrame am bufConfigCheck 0x4E#8 writeSpTail

/-- `CONVERT_T am` (R211). -/
def execConvertT (am : AddrMode) (s : State) : Host.Outcome State Fault Refusal :=
  operation (encode (.convertT am)) (convertTBody am) s

/-- `RECALL_E2 am` (R215). -/
def execRecallE2 (am : AddrMode) (s : State) : Host.Outcome State Fault Refusal :=
  operation (encode (.recallE2 am)) (recallE2Body am) s

/-- `READ_POWER am` (R220). -/
def execReadPower (am : AddrMode) (s : State) : Host.Outcome State Fault Refusal :=
  operation (encode (.readPower am)) (readPowerBody am) s

/-- `COPY_SP am` (R222). -/
def execCopySp (am : AddrMode) (s : State) : Host.Outcome State Fault Refusal :=
  operation (encode (.copySp am)) (copySpBody am) s

/-- `READ_SP am` (R224). -/
def execReadSp (am : AddrMode) (s : State) : Host.Outcome State Fault Refusal :=
  operation (encode (.readSp am)) (readSpBody am) s

/-- `WRITE_SP am` (R228). -/
def execWriteSp (am : AddrMode) (s : State) : Host.Outcome State Fault Refusal :=
  operation (encode (.writeSp am)) (writeSpBody am) s

end Sys2Proof.Machine
end

