-- ==== Sys2Proof/Machine/Dispatch.lean ====
section
/-! DEFINITION. The closed set of operations (spec 46_command_fsm.md R245): one arm per constructor, each a direct call of
the operation's meaning. -/

namespace Sys2Proof.Machine

def exec (i : Instr) (s : State) : Host.Outcome State Fault Refusal :=
  match i with
  | .nop => Sys2Proof.Machine.execNop s
  | .init => Sys2Proof.Machine.execInit s
  | .rbit => Sys2Proof.Machine.execRbit s
  | .wbit b => Sys2Proof.Machine.execWbit b s
  | .rbyte => Sys2Proof.Machine.execRbyte s
  | .wbyte imm8 => Sys2Proof.Machine.execWbyte imm8 s
  | .rbytes n => Sys2Proof.Machine.execRbytes n s
  | .wbytes n => Sys2Proof.Machine.execWbytes n s
  | .crc n => Sys2Proof.Machine.execCrc n s
  | .crcchk n => Sys2Proof.Machine.execCrcchk n s
  | .readRom => Sys2Proof.Machine.execReadRom s
  | .matchRom => Sys2Proof.Machine.execMatchRom s
  | .skipRom => Sys2Proof.Machine.execSkipRom s
  | .searchRom => Sys2Proof.Machine.execSearchRom s
  | .alarmSearch => Sys2Proof.Machine.execAlarmSearch s
  | .convertT am => Sys2Proof.Machine.execConvertT am s
  | .recallE2 am => Sys2Proof.Machine.execRecallE2 am s
  | .readPower am => Sys2Proof.Machine.execReadPower am s
  | .copySp am => Sys2Proof.Machine.execCopySp am s
  | .readSp am => Sys2Proof.Machine.execReadSp am s
  | .writeSp am => Sys2Proof.Machine.execWriteSp am s

end Sys2Proof.Machine
end

