-- ==== Sys2Proof/Machine/Idle.lean ====
section
/-! DEFINITION. What an idle OWM does with what the outside world sends it (spec 10_state.md R40, 46_command_fsm.md R240,
R245, 70_reset_and_hazards.md R290). -/

namespace Sys2Proof.Machine

/-- R240, R245: a command word written to `CMD` while idle. -/
def command (w : Word) (s : State) : Host.Outcome State Fault Refusal :=
  match decode w with
  | .ok i => exec i s
  | .error _ => rejectWord w s

/-- R40, R43, R290: a host event while idle. -/
def hostEvent (h : HostEvent) (s : State) : Host.Outcome State Fault Refusal :=
  match h with
  | .rst _ => .next s.afterRst
  | .read off => .next (s.readReg off)
  | .write off w => if off = offCmd then command w s else .next (s.storeReg off w)

/-- A step of an idle OWM: the next thing the outside world does. An answer of the line that nobody asked for is passed
over; with nothing to come OWM waits (R290). -/
def idleStep (s : State) : Host.Outcome State Fault Refusal :=
  match s.inputs with
  | [] => .next s
  | .pins _ :: rest => .next { s with inputs := rest }
  | .host h :: rest => hostEvent h { s with inputs := rest }
  | .during h :: rest => hostEvent h { s with inputs := rest }

end Sys2Proof.Machine
end

