-- ==== Sys2Proof/Machine/Sequencer.lean ====
section
/-! DEFINITION. The sequencer as a state machine that moves one event at a time (spec 46_command_fsm.md R241, R243, R246,
R247, R249): a pin event, a delay that elapses, a decision, a host event that comes while OWM is busy. A step of a busy
OWM is one such move; the operation as one step (R251) is what these moves add up to.

Here the hidden registers of 10_state.md R30 are at work: `STG`, `WMASK`, `LASTPOS`, `ACC`, `CRCW`, `TMR`. Where R30 and
R243 leave their moment of writing open, log entry 17 says what the model does. -/

namespace Sys2Proof.Machine

/-- The phases of R243 without their indices. -/
inductive Phase where
  | check
  | waitHigh
  | rst
  | txAddrCmd
  | txAddr
  | txCmd
  | txData
  | rxData
  | srch
  | poll
  | hold
  | validate
  | complete
  deriving DecidableEq, Repr

/-- R246: the phases of the addressing step of a function command. -/
def addrPhases : AddrMode → List Phase
  | .noAddr => []
  | .skipAddr => [.waitHigh, .rst, .txAddrCmd]
  | .matchAddr => [.waitHigh, .rst, .txAddrCmd, .txAddr]

/-- R246: the phases of a function command; `alwaysCheck` for `WRITE_SP`. -/
def fnPlan (am : AddrMode) (alwaysCheck : Bool) (body : List Phase) : List Phase :=
  (if alwaysCheck || am == .matchAddr then [Phase.check] else []) ++ addrPhases am ++ [.txCmd] ++ body ++ [.complete]

/-- R246: the phases after `DECODE`, in order. A transfer of no bytes has no payload phase (R142, R143). -/
def plan : Instr → List Phase
  | .nop => [.complete]
  | .init => [.waitHigh, .rst, .complete]
  | .rbit => [.rxData, .complete]
  | .wbit _ => [.txData, .complete]
  | .rbyte => [.rxData, .complete]
  | .wbyte _ => [.txData, .complete]
  | .rbytes n => if n = 0#4 then [.complete] else [.rxData, .complete]
  | .wbytes n => if n = 0#4 then [.complete] else [.txData, .complete]
  | .crc _ => [.validate, .complete]
  | .crcchk _ => [.validate, .complete]
  | .readRom => [.waitHigh, .rst, .txCmd, .rxData, .validate, .complete]
  | .matchRom => [.check, .waitHigh, .rst, .txCmd, .txAddr, .complete]
  | .skipRom => [.waitHigh, .rst, .txCmd, .complete]
  | .searchRom => [.waitHigh, .rst, .txCmd, .srch, .validate, .complete]
  | .alarmSearch => [.waitHigh, .rst, .txCmd, .srch, .validate, .complete]
  | .convertT am => fnPlan am false []
  | .recallE2 am => fnPlan am false [.poll]
  | .readPower am => fnPlan am false [.rxData]
  | .copySp am => fnPlan am false [.hold]
  | .readSp am => fnPlan am false [.rxData, .validate]
  | .writeSp am => fnPlan am true [.txData]

/-- The phase that follows `p` in a plan. -/
def phaseAfter (p : Phase) : List Phase → Phase
  | [] => .complete
  | q :: r => if q = p then r.headD .complete else phaseAfter p r

/-- The address mode of an operation; `NONE` for one without. -/
def addrModeOfOp : Instr → AddrMode
  | .convertT am => am
  | .recallE2 am => am
  | .readPower am => am
  | .copySp am => am
  | .readSp am => am
  | .writeSp am => am
  | _ => .noAddr

/-- R210 step (0), R171: the operation checks `ADDR` first. -/
def checksAddr : Instr → Bool
  | .matchRom => true
  | i => addrModeOfOp i == .matchAddr

/-- R228: the operation checks `BUF[4]` first. -/
def checksConfig : Instr → Bool
  | .writeSp _ => true
  | _ => false

/-- R69: how many bytes the payload phase moves; a single bit counts as one byte. -/
def payloadBytesOf : Instr → Nat
  | .rbytes n => n.toNat
  | .wbytes n => n.toNat
  | .readRom => 8
  | .readSp _ => 9
  | .writeSp _ => 3
  | _ => 1

/-- R246: the last bit index of a payload byte, 0 for the single-bit payloads. -/
def lastBitOf : Instr → Nat
  | .rbit => 0
  | .wbit _ => 0
  | .readPower _ => 0
  | _ => 7

/-- The payload byte `k` an operation writes (R129, R147, R149, R228). -/
def txByte (i : Instr) (s : State) (k : Nat) : Byte :=
  match i with
  | .wbit b => 0#7 ++ BitVec.ofBool b
  | .wbyte v => v
  | .wbytes _ => s.bufByte k
  | .writeSp _ => s.bufByte (2 + k)
  | _ => 0#8

/-- `SEQ <- q`. -/
def State.goto (q : Seq) (s : State) : State := { s with seq := q }

/-- R249: an error in any state: the line is released in the same cycle, nothing more is driven or waited for. -/
def State.abort (e : OpError) (s : State) : State :=
  { s with owDriveLow := false, seq := .complete (some e), hid := { s.hid with tmr := 0 } }

/-- The first position of a phase, with the working state the phase starts from. -/
def State.enter (p : Phase) (s : State) : State :=
  match p with
  | .check => s.goto .check
  | .waitHigh => s.goto .waitHigh
  | .rst => s.goto (.rst .low)
  | .txAddrCmd => s.goto (.txAddrCmd 0 .low)
  | .txAddr => s.goto (.txAddr 0 0 .low)
  | .txCmd => s.goto (.txCmd 0 .low)
  | .txData => s.goto (.txData 0 0 .low)
  | .rxData => { s with seq := .rxData 0 0 .low, hid := { s.hid with stg := 0#72, acc := 0#8, crcw := 0#8 } }
  | .srch => s.goto (.srch 0 .r1 .low)
  | .poll => s.goto (.poll 1 .low)
  | .hold => { s with seq := .hold, hid := { s.hid with tmr := Config.tCopy } }
  | .validate => s.goto .validate
  | .complete => s.goto (.complete none)

/-- R241: on to the phase after `p`. -/
def State.advance (i : Instr) (p : Phase) (s : State) : State := s.enter (phaseAfter p (plan i))

/-- The three kinds of slot (R94, R95). -/
inductive Slot where
  | write (b : Bool)
  | read
  | reset
  deriving DecidableEq, Repr

/-- The position after a position of a slot (R243); none when the slot is over. -/
def Slot.nextPos : Slot → SlotPos → Option SlotPos
  | .write _, .low => some .tail
  | .write _, _ => none
  | _, .low => some .rel
  | _, .rel => some .sample
  | _, .sample => some .tail
  | _, .tail => none

/-- The delay of a position (R122, R124, R125, R243). -/
def Slot.span (P : Profile) : Slot → SlotPos → Nat
  | .write b, .low => writeLow P b
  | .write b, _ => writeHigh P b
  | .read, .low => P.A
  | .read, .rel => P.E
  | .read, _ => P.F
  | .reset, .low => P.H
  | .reset, .rel => P.I
  | .reset, _ => P.J

/-- `TMR` starts to count `t`. -/
def State.startDelay (t : Nat) (s : State) : State := { s with hid := { s.hid with tmr := t } }

/-- The running delay has elapsed: it is in the trace and `TMR` is 0. -/
def State.elapse (s : State) : State := (s.emit (.delay s.hid.tmr)).startDelay 0

/-- One pin event of the sequencer; a fault aborts (R126, R249). -/
def State.pinTick (act : Bool → State → State) (s : State) : State :=
  if s.look.1.pinFault then
    (s.look.2.emit (.faulted s.look.1.pinErr)).abort (.pinFault s.look.1.pinErr)
  else act s.look.1.owIn s.look.2

/-- One move inside a slot. `at_` gives the position in `SEQ`, `onSample` says what a sample is kept in, `next` what
follows the slot. -/
def State.slotTick (sl : Slot) (p : SlotPos) (at_ : SlotPos → Seq) (onSample : Bool → Hidden → Hidden)
    (next : State → State) (s : State) : State :=
  if 0 < s.hid.tmr then
    (match sl.nextPos p with
     | some q => s.elapse.goto (at_ q)
     | none => next s.elapse)
  else
    match p with
    | .low => s.pinTick fun _ u => u.driveLow.startDelay (sl.span Config.profile .low)
    | .rel => s.pinTick fun _ u => u.releaseLine.startDelay (sl.span Config.profile .rel)
    | .sample => s.pinTick fun b u =>
        (({ u with hid := onSample b u.hid }.emit (.sample b)).goto (at_ .tail)).startDelay
          (sl.span Config.profile .tail)
    | .tail =>
      (match sl with
       | .write b => s.pinTick fun _ u => u.releaseLine.startDelay (writeHigh Config.profile b)
       | _ => next s)

/-- A sample shifted into `ACC` (R140). -/
def keepBit (b : Bool) (h : Hidden) : Hidden := { h with acc := shiftIn b h.acc }

/-- A payload sample: into `ACC` and, bit-serially, into `CRCW` (R155). -/
def keepPayloadBit (b : Bool) (h : Hidden) : Hidden :=
  { h with acc := shiftIn b h.acc, crcw := crcBit h.crcw b }

/-- The presence sample, kept for the end of the operation (R264). -/
def keepPresence (b : Bool) (h : Hidden) : Hidden := { h with presence := some (!b) }

/-- The true-bit sample of the triplet in progress, the last but one in `ACC`. -/
def State.r1 (s : State) : Bool := s.hid.acc.getLsbD 6
/-- The complement sample of the triplet in progress, the last in `ACC`. -/
def State.r2 (s : State) : Bool := s.hid.acc.getLsbD 7
/-- The last sample in `ACC`. -/
def State.lastSample (s : State) : Bool := s.hid.acc.getLsbD 7

/-- The bit the search writes back at position `k` (R188). -/
def State.chosenBit (s : State) (k : Nat) : Bool :=
  searchChoice s.conflict s.hid.lastPos k s.r1 s.r2

/-- R189: `a[k] <- b` in `STG`, and the same bit into `CRCW`. -/
def keepAddrBit (k : Nat) (b : Bool) (h : Hidden) : Hidden :=
  { h with stg := if b then h.stg ||| BitVec.twoPow 72 k else h.stg &&& ~~~(BitVec.twoPow 72 k),
           crcw := crcBit h.crcw b }

/-- R247: after a write slot of bit `j` of byte `k` of `count` bytes. -/
def State.nextTx (i : Instr) (p : Phase) (at_ : Nat → Nat → Seq) (count lastBit k j : Nat) (s : State) : State :=
  if j < lastBit then s.goto (at_ k (j + 1))
  else if k + 1 < count then s.goto (at_ (k + 1) 0)
  else s.advance i p

/-- R247: after a read slot of bit `j` of payload byte `k`: a whole byte goes to `STG`. -/
def State.nextRx (i : Instr) (k j : Nat) (s : State) : State :=
  if j < (lastBitOf i) then s.goto (.rxData k (j + 1) .low)
  else
    let t := { s with hid := { s.hid with stg := stgStore s.hid.stg k s.hid.acc } }
    if k + 1 < (payloadBytesOf i) then { t with seq := .rxData (k + 1) 0 .low, hid := { t.hid with acc := 0#8 } }
    else t.advance i .rxData

/-- R247, R187 to R189: after a slot of the triplet of position `k`. -/
def State.nextTriplet (i : Instr) (k : Nat) (t : Triplet) (s : State) : State :=
  match t with
  | .r1 => s.goto (.srch k .r2 .low)
  | .r2 =>
    if s.r1 && s.r2 then s.abort .noDevice
    else { s with seq := .srch k .wb .low,
                  hid := { s.hid with wmask := searchMask s.hid.lastPos k s.r1 s.r2 s.hid.wmask } }
  | .wb =>
    let u := { s with hid := keepAddrBit k (s.chosenBit k) s.hid }
    if k < 63 then u.goto (.srch (k + 1) .r1 .low) else u.advance i .srch

/-- R215, R246: after poll number `k`. -/
def State.nextPoll (i : Instr) (k : Nat) (s : State) : State :=
  if s.lastSample then s.advance i .poll
  else if k < Config.recallPolls then s.goto (.poll (k + 1) .low)
  else s.abort .timeout

/-- After the initialization sequence: absence is an error for every operation but `INIT` (R127, R173, R246). -/
def State.afterInitSeq (i : Instr) (s : State) : State :=
  if i = .init ∨ s.hid.presence = some true then s.advance i .rst else s.abort .noDevice

/-- `CHECK` (R171, R210 step (0), R228). -/
def State.checkTick (i : Instr) (s : State) : State :=
  if checksAddr i && crc8 (bytesOf s.addr) != 0#8 then s.abort (.checksumMismatch (crc8 (bytesOf s.addr)))
  else if checksConfig i && (configIndex (s.bufByte 4)).isNone then s.abort (.invalidConfig (s.bufByte 4))
  else s.advance i .check

/-- `CRCW` decides (R160). -/
def State.verdict (i : Instr) (s : State) : State :=
  if s.hid.crcw = 0#8 then s.advance i .validate else s.abort (.checksumMismatch s.hid.crcw)

/-- `VALIDATE`: `Check` and `ValidateConfig` on staged data, `Crc8` on `BUF` (R158, R159, R170, R190, R224). -/
def State.validateTick (i : Instr) (s : State) : State :=
  match i with
  | .crc n => { s with hid := { s.hid with crcw := crc8 (s.bufPrefix n.toNat) } }.advance i .validate
  | .crcchk n => { s with hid := { s.hid with crcw := crc8 (s.bufPrefix n.toNat) } }.verdict i
  | .readSp _ =>
    if s.hid.crcw = 0#8 ∧ (configIndex (stgByte s.hid.stg 4)).isNone then
      s.abort (.invalidConfig (stgByte s.hid.stg 4))
    else s.verdict i
  | _ => s.verdict i

/-- The results an operation commits, from the working state (R242, R263). -/
def State.commit (i : Instr) (s : State) : State :=
  match i with
  | .rbit => s.setBitFlag s.lastSample
  | .readPower _ => s.setBitFlag s.lastSample
  | .recallE2 _ => s.setBitFlag true
  | .rbyte => { s with data := stgByte s.hid.stg 0 }
  | .rbytes n => { s with buf := storeBytes s.buf 0 (stgBytes s.hid.stg n.toNat) }
  | .crc _ => { s with crc := s.hid.crcw }
  | .readRom => { s with addr := s.hid.stg.setWidth 64 }
  | .searchRom => s.commitSearch (s.hid.stg.setWidth 64) s.hid.wmask
  | .alarmSearch => s.commitSearch (s.hid.stg.setWidth 64) s.hid.wmask
  | .readSp _ => s.commitScratchpad (stgBytes s.hid.stg 9) ((configIndex (stgByte s.hid.stg 4)).getD 0#2)
  | _ => s

/-- R190: the working state a search starts from. -/
def State.prepare (i : Instr) (s : State) : State :=
  match i with
  | .searchRom | .alarmSearch =>
    { s with hid := { s.hid with wmask := s.conflict, lastPos := highestSet s.conflict, stg := 0#72, crcw := 0#8 } }
  | _ => s

/-- One sample of `AwaitHigh` (R123). -/
def State.awaitTick (i : Instr) (s : State) : State :=
  s.pinTick fun b u => if b then (u.emit .awaited).advance i .waitHigh else u

/-- One move of operation `i`, by the position (R243, R246, R247). -/
def State.move (i : Instr) (s : State) : State :=
  match s.seq with
  | .idle => s
  | .decode => (s.prepare i).enter ((plan i).headD .complete)
  | .check => s.checkTick i
  | .waitHigh => s.awaitTick i
  | .rst p => s.slotTick .reset p .rst keepPresence (State.afterInitSeq i)
  | .txAddrCmd j p =>
    s.slotTick (.write ((addrCmdByte (addrModeOfOp i)).getLsbD j)) p (.txAddrCmd j) (fun _ h => h)
      (State.nextTx i .txAddrCmd (fun _ j' => .txAddrCmd j' .low) 1 7 0 j)
  | .txAddr k j p =>
    s.slotTick (.write (s.addr.getLsbD (8 * k + j))) p (.txAddr k j) (fun _ h => h)
      (State.nextTx i .txAddr (fun k' j' => .txAddr k' j' .low) 8 7 k j)
  | .txCmd j p =>
    s.slotTick (.write (i.opc.getLsbD j)) p (.txCmd j) (fun _ h => h)
      (State.nextTx i .txCmd (fun _ j' => .txCmd j' .low) 1 7 0 j)
  | .txData k j p =>
    s.slotTick (.write ((txByte i s k).getLsbD j)) p (.txData k j) (fun _ h => h)
      (State.nextTx i .txData (fun k' j' => .txData k' j' .low) (payloadBytesOf i) (lastBitOf i) k j)
  | .rxData k j p => s.slotTick .read p (.rxData k j) keepPayloadBit (State.nextRx i k j)
  | .srch k .wb p =>
    s.slotTick (.write (s.chosenBit k)) p (.srch k .wb) (fun _ h => h) (State.nextTriplet i k .wb)
  | .srch k t p => s.slotTick .read p (.srch k t) keepBit (State.nextTriplet i k t)
  | .poll k p => s.slotTick .read p (.poll k) keepBit (State.nextPoll i k)
  | .hold => s.elapse.advance i .hold
  | .validate => s.validateTick i
  | .complete none => (s.commit i).finishOk
  | .complete (some e) => s.raiseError e

/-- One move of the sequencer; the operation is the word in `CMD` (R245). -/
def State.sequence (s : State) : State :=
  match decode s.cmd with
  | .ok i => s.move i
  | .error _ =>
    match s.seq with
    | .idle => s
    | .complete (some e) => s.raiseError e
    | _ => s.abort (.illegalCommand (opcOf s.cmd))

/-- The positions in which time passes. The sequencer's bookkeeping takes none (D5, D32): log entry 11. -/
def Seq.timed : Seq → Bool
  | .idle => false
  | .decode => false
  | .check => false
  | .validate => false
  | .complete _ => false
  | _ => true

/-- One step of a busy OWM: a host event that comes now, if time passes here, else one move of the sequencer. -/
def State.tick (s : State) : State :=
  match s.seq.timed, s.inputs with
  | true, .during h :: rest => { s with inputs := rest }.busyEvent s.hid.tmr h
  | _, _ => s.sequence

end Sys2Proof.Machine
end

