-- ==== Sys2Proof/Machine/Step.lean ====
section
/-! DEFINITION. The step of OWM: an idle OWM takes the next thing the host does, and a command is a whole operation (spec
46_command_fsm.md R251); a busy OWM makes one move of its sequencer (R243). -/

namespace Sys2Proof.Machine

/-- One step. It never faults and never refuses: log entry 5. -/
def step (s : State) : Host.Outcome State Fault Refusal :=
  if s.busy then .next s.tick else idleStep s

/-- The host writes `w` to `CMD` as the next thing that happens: OWM's counterpart of placing an instruction where it is
fetched. OWM is made idle, with the line released, if it is not. Log entry 1. -/
def State.withFetchWord (s : State) (nbits w : Nat) : State :=
  { s with
      inputs := .host (.write offCmd (BitVec.ofNat 32 (w % 2 ^ nbits))) :: s.inputs, seq := .idle, owDriveLow := false }

end Sys2Proof.Machine
end

