-- ==== Sys2Proof/Safety.lean ====
section
/-! DEFINITION. The terms the claims use: the pin traces of R94 and R95 and their durations, what the answers of the line
say, the state an operation ends in, the frame of an operation, the errors of R266, the invariant of a state, and a bus of
slaves as the wired-AND of their codes (spec 44_rom_search.md R187). -/

namespace Sys2Proof.Machine

/-! ## Pin traces -/

/-- The trace of a read slot that sampled `b` (R94, R124). -/
def readSlotTrace (P : Profile) (b : Bool) : List PinEvent :=
  [.low, .delay P.A, .release, .delay P.E, .sample b, .delay P.F]

/-- The trace of a write slot of `b` (R94, R125). -/
def writeSlotTrace (P : Profile) (b : Bool) : List PinEvent :=
  if b then [.low, .delay P.A, .release, .delay P.B] else [.low, .delay P.C, .release, .delay P.D]

/-- The trace of the initialization sequence with presence sample `p` (R95, R122). -/
def initTrace (P : Profile) (p : Bool) : List PinEvent :=
  [.awaited, .low, .delay P.H, .release, .delay P.I, .sample p, .delay P.J]

/-- The trace of a byte written, bit 0 first (R98, R141). -/
def writeByteTrace (v : Byte) : List PinEvent :=
  (bitsOf v).flatMap (writeSlotTrace Config.profile)

/-- The trace of bytes written in index order (R143). -/
def writeBytesTrace (l : List Byte) : List PinEvent := l.flatMap writeByteTrace

/-- The trace of a byte read, bit 0 first (R98, R140). -/
def readByteTrace (v : Byte) : List PinEvent :=
  (bitsOf v).flatMap (readSlotTrace Config.profile)

/-- The trace of bytes read in index order (R142). -/
def readBytesTrace (l : List Byte) : List PinEvent := l.flatMap readByteTrace

/-- The time one event takes: pin events take none (R10, D5). -/
def PinEvent.time : PinEvent → Nat
  | .delay t => t
  | _ => 0

/-- The duration of a trace, in nanoseconds, counted from the end of `AwaitHigh` (R310). -/
def duration (l : List PinEvent) : Nat := (l.map PinEvent.time).sum

/-! ## The answers of the line -/

/-- An answer without a fault; not a host event. -/
def Input.clean : Input → Bool
  | .pins p => !p.pinFault
  | _ => false

/-- A host event that does not wait for OWM to be idle. -/
def Input.isDuring : Input → Bool
  | .during _ => true
  | _ => false

/-- The next `n` inputs are answers of the line, none is a fault, and no host event comes right after them (so that
none meets the last delay of an operation that takes `n` answers). -/
def State.quiet (s : State) (n : Nat) : Prop :=
  n ≤ s.inputs.length ∧ (∀ x ∈ s.inputs.take n, x.clean = true) ∧ ∀ x ∈ s.inputs[n]?, x.isDuring = false

/-- The line level of the answer at index `k` (index 0 comes next). -/
def State.level (s : State) (k : Nat) : Bool :=
  match s.inputs[k]? with
  | some (.pins p) => p.owIn
  | _ => false

/-- The line reads low `m` times and then high: what `AwaitHigh` sees (R123). -/
def State.risesAfter (s : State) (m : Nat) : Prop :=
  (∀ k, k < m → s.level k = false) ∧ s.level m = true

/-- A byte from its bits, bit 0 first in time (R60). -/
def byteOfBits (b : Nat → Bool) : Byte :=
  BitVec.ofBool (b 7) ++ BitVec.ofBool (b 6) ++ BitVec.ofBool (b 5) ++ BitVec.ofBool (b 4)
    ++ BitVec.ofBool (b 3) ++ BitVec.ofBool (b 2) ++ BitVec.ofBool (b 1) ++ BitVec.ofBool (b 0)

/-- The level a read slot samples, when its first answer has index `k`: a read slot looks at the pins three times
(low, release, sample). -/
def State.readAt (s : State) (k : Nat) : Bool := s.level (k + 2)

/-- The byte eight read slots sample, from answer `k` on. -/
def State.byteAt (s : State) (k : Nat) : Byte := byteOfBits fun j => s.readAt (k + 3 * j)

/-- The `n` bytes that `8 n` read slots sample, from answer `k` on. -/
def State.bytesAt (s : State) (k n : Nat) : List Byte :=
  (List.range n).map fun i => s.byteAt (k + 24 * i)

/-- Answers an initialization sequence takes when the line rises after `m` samples. -/
def initAnswers (m : Nat) : Nat := m + 4

/-- The presence sample of an initialization sequence that starts at the next answer (R122). -/
def State.presenceAt (s : State) (m : Nat) : Bool := s.level (m + 3)

/-! ## The state an operation ends in -/

/-- Success (R242): the results, the indication, OWM idle, the line released, `n` answers used, the pin trace `tr`.
Everything `results` does not write is as it was at acceptance. -/
def State.endedOk (s : State) (w : Word) (n : Nat) (tr : List PinEvent) (results : State → State) : State :=
  { results s with
      cmd := w, done := true, err := false, ecode := 0#4, einfo := 0#8, seq := .idle, owDriveLow := false,
      hid := Hidden.free s.freeIx, trace := tr.reverse, inputs := s.inputs.drop n, freeIx := s.freeIx + 1 }

/-- An error end (R262): only `STATUS` (with `PRESENCE` if `p` gives a sample, R264), `CMD` and the pin trace. -/
def State.endedError (s : State) (w : Word) (n : Nat) (tr : List PinEvent) (p : Option Bool) (e : OpError) : State :=
  { s with
      presence := p.getD s.presence, cmd := w, done := true, err := true, ecode := e.code, einfo := e.info,
      seq := .idle, owDriveLow := false, hid := Hidden.free s.freeIx, trace := tr.reverse,
      inputs := s.inputs.drop n, freeIx := s.freeIx + 1 }

/-! ## The addressing step of a function command (R210) -/

/-- Answers the addressing step takes. -/
def addrAnswers (am : AddrMode) (m : Nat) : Nat :=
  match am with
  | .noAddr => 0
  | .skipAddr => initAnswers m + 16
  | .matchAddr => initAnswers m + 16 + 128

/-- The trace of the addressing step with a device present. -/
def addrTrace (am : AddrMode) (addr : Word64) : List PinEvent :=
  match am with
  | .noAddr => []
  | .skipAddr => initTrace Config.profile false ++ writeByteTrace 0xCC#8
  | .matchAddr => initTrace Config.profile false ++ writeByteTrace 0x55#8 ++ writeBytesTrace (bytesOf addr)

/-- What must hold for the addressing step to succeed: with `MATCH` a valid `ADDR` (R171); with `SKIP` and `MATCH` a
line that rises and a presence pulse (R173). -/
def State.addressable (s : State) (am : AddrMode) (m : Nat) : Prop :=
  match am with
  | .noAddr => True
  | .skipAddr => s.risesAfter m ∧ s.presenceAt m = false
  | .matchAddr => crc8 (bytesOf s.addr) = 0#8 ∧ s.risesAfter m ∧ s.presenceAt m = false

/-- `PRESENCE` after the addressing step succeeded (R210, R264). -/
def addrPresence (am : AddrMode) (old : Bool) : Bool :=
  match am with
  | .noAddr => old
  | .skipAddr => true
  | .matchAddr => true

/-! ## Which registers an operation may write (R21 to R27, R263) -/

/-- `ADDR` is a result of the operation (R21). -/
def writesAddr : Instr → Bool
  | .readRom => true
  | .searchRom => true
  | .alarmSearch => true
  | _ => false

/-- `CONFLICT` and `LAST` are results of the operation (R22, R27). -/
def writesConflict : Instr → Bool
  | .searchRom => true
  | .alarmSearch => true
  | _ => false

/-- `DATA` is a result of the operation (R23). -/
def writesData : Instr → Bool
  | .rbyte => true
  | _ => false

/-- `CRC` is a result of the operation (R24). -/
def writesCrc : Instr → Bool
  | .crc _ => true
  | _ => false

/-- `BUF` is a result of the operation (R25). -/
def writesBuf : Instr → Bool
  | .rbytes _ => true
  | .readSp _ => true
  | _ => false

/-- `BIT` is a result of the operation (R27). -/
def writesBit : Instr → Bool
  | .rbit => true
  | .readPower _ => true
  | .recallE2 _ => true
  | _ => false

/-- `RES` is a result of the operation (R27). -/
def writesRes : Instr → Bool
  | .readSp _ => true
  | _ => false

/-- The operation performs an initialization sequence (R246). -/
def hasInitSeq : Instr → Bool
  | .init => true
  | .readRom => true
  | .matchRom => true
  | .skipRom => true
  | .searchRom => true
  | .alarmSearch => true
  | i => addrModeOfOp i != .noAddr

/-- Every result register and result flag has the same value in both states. -/
def sameResults (s t : State) : Prop :=
  t.addr = s.addr ∧ t.conflict = s.conflict ∧ t.data = s.data ∧ t.crc = s.crc ∧ t.buf = s.buf ∧ t.bit = s.bit
    ∧ t.last = s.last ∧ t.res = s.res

/-- An `rst` that does not wait for OWM to be idle. -/
def Input.isRst : Input → Bool
  | .during (.rst _) => true
  | _ => false

/-- No such `rst` arrives among the inputs. -/
def State.noRst (s : State) : Prop := ∀ x ∈ s.inputs, x.isRst = false

/-! ## Which operation can end with which error (R266) -/

/-- The operation performs a pin event. -/
def hasPinEvent : Instr → Bool
  | .nop => false
  | .crc _ => false
  | .crcchk _ => false
  | .rbytes n => n != 0#4
  | .wbytes n => n != 0#4
  | _ => true

/-- R266, a row for a well-formed operation, a column for an error. -/
def mayRaise (i : Instr) : OpError → Bool
  | .pinFault _ => hasPinEvent i
  | .noDevice => hasInitSeq i && i != .init
  | .timeout => (match i with | .recallE2 _ => true | _ => false)
  | .checksumMismatch c =>
    c != 0#8 && (checksAddr i || (match i with
      | .crcchk _ => true
      | .readRom => true
      | .searchRom => true
      | .alarmSearch => true
      | .readSp _ => true
      | _ => false))
  | .invalidConfig v =>
    (configIndex v).isNone && (match i with | .readSp _ => true | .writeSp _ => true | _ => false)
  | .illegalCommand _ => false

/-! ## Durations (R310) -/

/-- The prefix of an address mode, in nanoseconds. -/
def prefixTime : AddrMode → Nat
  | .noAddr => 0
  | .skipAddr => 1520000
  | .matchAddr => 6000000

/-- R310, a row for an operation: how long a successful one lasts, in nanoseconds. A recall lasts its polls longer. -/
def stdTime : Instr → Nat
  | .nop => 0
  | .init => 960000
  | .rbit => 70000
  | .wbit _ => 70000
  | .rbyte => 560000
  | .wbyte _ => 560000
  | .rbytes n => 560000 * n.toNat
  | .wbytes n => 560000 * n.toNat
  | .crc _ => 0
  | .crcchk _ => 0
  | .readRom => 6000000
  | .matchRom => 6000000
  | .skipRom => 1520000
  | .searchRom => 14960000
  | .alarmSearch => 14960000
  | .convertT am => prefixTime am + 560000
  | .recallE2 am => prefixTime am + 560000
  | .readPower am => prefixTime am + 630000
  | .copySp am => prefixTime am + 10560000
  | .readSp am => prefixTime am + 5600000
  | .writeSp am => prefixTime am + 2240000

/-- The operation is a recall, whose polls R310 counts separately. -/
def isRecall : Instr → Bool
  | .recallE2 _ => true
  | _ => false

/-! ## Host writes while busy (R41) -/

/-- A write that does not wait for OWM to be idle. -/
def Input.isBusyWrite : Input → Bool
  | .during (.write _ _) => true
  | _ => false

/-- The same state with every such write taken out of what the outside world will do. -/
def State.withoutBusyWrites (s : State) : State :=
  { s with inputs := s.inputs.filter fun x => !x.isBusyWrite }

/-! ## The host's view of a register (R40, R42) -/

/-- R40: the registers a host write stores to, `CMD` apart. -/
def writable (off : BitVec 4) : Bool :=
  off == offData || off == offAddrLo || off == offAddrHi || off == offConflictLo || off == offConflictHi
    || off == offBuf0 || off == offBuf1 || off == offBuf2

/-- R40: what a write of `w` makes a register read; `DATA` and `BUF2` store bits 7:0 only. -/
def stored (off : BitVec 4) (w : Word) : Word :=
  if off = offData ∨ off = offBuf2 then 0#24 ++ w.extractLsb' 0 8 else w

/-! ## The invariant of a state -/

/-- R29, R260: what the indication can show. -/
def State.indicationOk (s : State) : Prop :=
  (s.busy = true → s.done = false ∧ s.err = false) ∧ (s.err = true → s.done = true)
    ∧ (s.err = false → s.ecode = 0#4 ∧ s.einfo = 0#8) ∧ (s.err = true → 1 ≤ s.ecode.toNat ∧ s.ecode.toNat ≤ 6)
    ∧ (s.ecode = 4#4 → s.einfo ≠ 0#8)

/-- A position that a write slot has (R243). -/
def SlotPos.ofWrite : SlotPos → Bool
  | .low => true
  | .tail => true
  | _ => false

/-- R26, R243, R247: the indices of a position stay inside their bounds. -/
def Seq.legal (i : Instr) : Seq → Prop
  | .txAddrCmd j p => j ≤ 7 ∧ p.ofWrite = true
  | .txAddr k j p => k < 8 ∧ j ≤ 7 ∧ p.ofWrite = true
  | .txCmd j p => j ≤ 7 ∧ p.ofWrite = true
  | .txData k j p => k < payloadBytesOf i ∧ j ≤ lastBitOf i ∧ p.ofWrite = true
  | .rxData k j _ => k < payloadBytesOf i ∧ j ≤ lastBitOf i
  | .srch k .wb p => k < 64 ∧ p.ofWrite = true
  | .srch k _ _ => k < 64
  | .poll k _ => 1 ≤ k ∧ k ≤ Config.recallPolls
  | _ => True

/-- The sequencer stands where the operation in `CMD` can be; an illegal word only awaits its error end (R245). -/
def State.seqOk (s : State) : Prop :=
  match decode s.cmd with
  | .ok i => s.seq.legal i
  | .error _ => s.seq = .idle ∨ s.seq = .decode ∨ ∃ e, s.seq = .complete (some e)

/-- The position inside the slot or the initialization sequence in progress, if there is one. -/
def Seq.slotPos : Seq → Option SlotPos
  | .rst p => some p
  | .txAddrCmd _ p => some p
  | .txAddr _ _ p => some p
  | .txCmd _ p => some p
  | .txData _ _ p => some p
  | .rxData _ _ p => some p
  | .srch _ _ p => some p
  | .poll _ p => some p
  | _ => none

/-- The low phase is over and the `PinRelease` that ends it is the next pin event of this position (R94, R95, R243). -/
def Seq.releaseNext : Seq → Bool
  | .rst p => p == .rel
  | .txAddrCmd _ p => p == .tail
  | .txAddr _ _ p => p == .tail
  | .txCmd _ p => p == .tail
  | .txData _ _ p => p == .tail
  | .rxData _ _ p => p == .rel
  | .srch _ .wb p => p == .tail
  | .srch _ _ p => p == .rel
  | .poll _ p => p == .rel
  | _ => false

/-- R131: OWM drives the line low only in a low phase, from its `PinLow` until the `PinRelease` that ends it. -/
def State.lineOk (s : State) : Prop :=
  s.owDriveLow = true →
    (s.seq.slotPos = some .low ∧ 0 < s.hid.tmr) ∨ (s.seq.releaseNext = true ∧ s.hid.tmr = 0)

/-- The next move of the sequencer is a pin event: a sample of `AwaitHigh`, a `PinLow`, a `PinRelease` or a `PinSample`
(R126, R243). -/
def State.pinEventDue (s : State) : Prop :=
  s.seq = .waitHigh
    ∨ (s.hid.tmr = 0 ∧ (s.seq.slotPos = some .low ∨ s.seq.releaseNext = true ∨ s.seq.slotPos = some .sample))

/-- The error an operation is about to report is one that operation can have: a checksum error has a non-zero
remainder (R260). -/
def State.pendingOk (s : State) : Prop :=
  ∀ c, s.seq = .complete (some (.checksumMismatch c)) → c ≠ 0#8

/-- The invariant every step keeps. -/
def State.Inv (s : State) : Prop := s.indicationOk ∧ s.seqOk ∧ s.lineOk ∧ s.pendingOk

/-! ## R100: illegal words -/

/-- The operation codes of R96. -/
def opcodes : List Byte :=
  [0x00#8, 0x01#8, 0x02#8, 0x03#8, 0x04#8, 0x05#8, 0x06#8, 0x07#8, 0x08#8, 0x09#8, 0x33#8, 0x55#8, 0xCC#8, 0xF0#8,
   0xEC#8, 0x44#8, 0xB8#8, 0xB4#8, 0x48#8, 0xBE#8, 0x4E#8]

/-- The codes whose operation uses `LEN` (R91). -/
def lenCodes : List Byte := [0x06#8, 0x07#8, 0x08#8, 0x09#8]

/-- The codes whose operation uses `AM` (R91). -/
def amCodes : List Byte := [0x44#8, 0xB8#8, 0xB4#8, 0x48#8, 0xBE#8, 0x4E#8]

/-- R100, clause by clause. -/
def illegalWord (w : Word) : Prop :=
  opcOf w ∉ opcodes ∨ rsvLowOf w ≠ 0#2 ∨ rsvHighOf w ≠ 0#8
    ∨ (opcOf w ∉ amCodes ∧ amOf w ≠ 0#2)
    ∨ (opcOf w ∉ lenCodes ∧ lenOf w ≠ 0#4)
    ∨ (opcOf w ≠ 0x03#8 ∧ opcOf w ≠ 0x05#8 ∧ immOf w ≠ 0#8)
    ∨ (opcOf w ∈ lenCodes ∧ 9 < (lenOf w).toNat)
    ∨ (opcOf w ∈ amCodes ∧ amOf w = 3#2)
    ∨ (opcOf w = 0x03#8 ∧ (immOf w).extractLsb' 1 7 ≠ 0#7)

/-! ## The search, as a function of what the line answers (R186 to R190) -/

/-- The reads of a pass by position: (true-bit sample, complement sample). -/
abbrev Reads := Nat → Bool × Bool

/-- The pass over `n` positions from `i` on: the address and the mask, or none at a `(1,1)` pair. -/
def walk (m : Word64) (rd : Reads) : Nat → Nat → Word64 → Word64 → Option (Word64 × Word64)
  | 0, _, a, wmask => some (a, wmask)
  | n + 1, i, a, wmask =>
    if (rd i).1 && (rd i).2 then none
    else walk m rd n (i + 1) (setBit a i (searchChoice m (highestSet m) i (rd i).1 (rd i).2))
      (searchMask (highestSet m) i (rd i).1 (rd i).2 wmask)

/-- A whole pass from mask `m`. -/
def searchPass (m : Word64) (rd : Reads) : Option (Word64 × Word64) := walk m rd 64 0 0#64 m

/-- The trace of the triplet of position `i` when no error ends it (R98). -/
def tripletTrace (m : Word64) (rd : Reads) (i : Nat) : List PinEvent :=
  readSlotTrace Config.profile (rd i).1 ++ readSlotTrace Config.profile (rd i).2
    ++ writeSlotTrace Config.profile (searchChoice m (highestSet m) i (rd i).1 (rd i).2)

/-- The trace of the 64 triplets. -/
def tripletsTrace (m : Word64) (rd : Reads) : List PinEvent := (List.range 64).flatMap (tripletTrace m rd)

/-- The reads of a pass whose first triplet starts at answer `k`: a triplet looks at the pins eight times. -/
def State.readsAt (s : State) (k : Nat) : Reads := fun i => (s.readAt (k + 8 * i), s.readAt (k + 8 * i + 3))

/-! ## A bus of slaves (R187, R189; the hypothesis R7 allows a proof to make about the environment) -/

/-- What a triplet at position `i` reads when the slaves with the codes `active` take part: the wired-AND of their bits,
and of the complements. -/
def busReads (active : List Word64) (i : Nat) : Bool × Bool :=
  (active.all fun c => c.getLsbD i, active.all fun c => !c.getLsbD i)

/-- A pass over `n` positions from `i` on against the slaves still taking part; a slave that disagrees with the bit
written back stops taking part. -/
def busWalk (m : Word64) : Nat → Nat → List Word64 → Word64 → Word64 → Option (Word64 × Word64)
  | 0, _, _, a, wmask => some (a, wmask)
  | n + 1, i, active, a, wmask =>
    if (busReads active i).1 && (busReads active i).2 then none
    else
      let c := searchChoice m (highestSet m) i (busReads active i).1 (busReads active i).2
      busWalk m n (i + 1) (active.filter fun x => x.getLsbD i == c) (setBit a i c)
        (searchMask (highestSet m) i (busReads active i).1 (busReads active i).2 wmask)

/-- A whole pass from mask `m` against the slaves with the codes given. -/
def busPass (codes : List Word64) (m : Word64) : Option (Word64 × Word64) := busWalk m 64 0 codes 0#64 m

/-- `k` passes one after the other, each with the mask the last one left: the addresses and the final mask. -/
def busPasses (codes : List Word64) : Nat → Word64 → Option (List Word64 × Word64)
  | 0, m => some ([], m)
  | k + 1, m =>
    match busPass codes m with
    | none => none
    | some (a, m') =>
      match busPasses codes k m' with
      | none => none
      | some (l, m'') => some (a :: l, m'')

/-- The slaves that agree with `a` in the bits below `i`: those still taking part at position `i` of a pass that has
written back the bits of `a`. -/
def takingPart (codes : List Word64) (a : Word64) (i : Nat) : List Word64 :=
  codes.filter fun c => (List.range i).all fun j => c.getLsbD j == a.getLsbD j

end Sys2Proof.Machine
end

