-- ==== Sys2Proof/Certificates/Slice0/Obligations.lean ====
section
/-! DEFINITION. The statements for the provers. Each docstring says which rule of spec/ the statement formalises. -/

open Sys2Proof Sys2Proof.Machine

/-! ## Encoding -/

/-- R90, R91, R96: the decoder gives back every well-formed instruction from its command word. -/
def Obligations.DecodeOfEncodeIsTheInstruction : Prop :=
  ∀ i : Instr, i.wellFormed = true → decode (encode i) = .ok i

/-- R90, R91, R96: a word that decodes is the command word of the instruction, which is well formed. -/
def Obligations.EncodeOfDecodeIsTheWord : Prop :=
  ∀ (w : Word) (i : Instr), decode w = .ok i → i.wellFormed = true ∧ encode i = w

/-- R96: a word decodes to the instruction of a row exactly when the row's match, mask and constraint select it. -/
def Obligations.DecodeAgreesWithOperationMap : Prop :=
  ∀ r ∈ opRows, ∀ w : Word, (∃ i, decode w = .ok i ∧ i.mnemonic = r.mnemonic) ↔ r.selects w = true

/-- R100: a word is rejected exactly when one of the rule's clauses holds; it is then accepted, performs no pin event,
changes no result register and no flag but the indication, and ends with `ECODE = 6`, `EINFO = w[7:0]`. -/
def Obligations.IllegalWordsEndWithIllegalCommand : Prop :=
  (∀ w : Word, (∃ e, decode w = .error e) ↔ illegalWord w)
    ∧ ∀ (s : State) (w : Word) (rest : List Input), s.seq = .idle → s.inputs = .host (.write offCmd w) :: rest →
        illegalWord w →
        step s = .next ({ s with inputs := rest }.endedError w 0 [] none (.illegalCommand (w.extractLsb' 0 8)))

/-- R96, R103: words written out from the table and the assembler examples. -/
def Obligations.SampleWordsDecode : Prop :=
  decode 0x00440005#32 = .ok (.wbyte 0x44#8) ∧ decode 0x00009006#32 = .ok (.rbytes 9#4)
    ∧ decode 0x000002BE#32 = .ok (.readSp .matchAddr) ∧ decode 0x00000144#32 = .ok (.convertT .skipAddr)
    ∧ decode 0x00010003#32 = .ok (.wbit true) ∧ decode 0x000000F0#32 = .ok .searchRom
    ∧ decode 0x00000033#32 = .ok .readRom ∧ decode 0x00008008#32 = .ok (.crc 8#4)
    ∧ decode 0x00000000#32 = .ok .nop ∧ decode 0x00000001#32 = .ok .init

/-! ## The step, the host's side, reset -/

/-- When the next thing the host does is to write a legal command word (R240, R245), an idle OWM's step is the
operation's meaning at the state with that input taken; so for the word `withFetchWord` places. That the step is the
WHOLE operation is the model's choice, log entry 5, which rests on R251, the spec's own inference (R240 alone moves `SEQ`
to `DECODE`); `withFetchWord` is the model's choice, log entry 1. -/
def Obligations.StepRunsTheDecodedOperation : Prop :=
  (∀ (s : State) (w : Word) (i : Instr) (rest : List Input), s.seq = .idle →
      (s.inputs = .host (.write offCmd w) :: rest ∨ s.inputs = .during (.write offCmd w) :: rest) →
      decode w = .ok i → step s = exec i { s with inputs := rest })
    ∧ ∀ (s : State) (i : Instr), i.wellFormed = true →
        step (s.withFetchWord 32 (encode i).toNat) = exec i { s with seq := .idle, owDriveLow := false }

/-- R41: a host write that meets a busy OWM changes nothing, wherever time passes in the operation. (The sequencer's
bookkeeping positions take no time: the model's choice, log entry 11.) -/
def Obligations.BusyOwmIgnoresHostWrites : Prop :=
  ∀ (s : State) (off : BitVec 4) (w : Word) (rest : List Input), s.seq.timed = true →
    s.inputs = .during (.write off w) :: rest → step s = .next { s with inputs := rest }

/-- R41: an operation ends in the same state whether or not the host writes registers while it runs. -/
def Obligations.WritesWhileBusyDoNotMatter : Prop :=
  ∀ (i : Instr) (s t : State), exec i s = .next t → exec i s.withoutBusyWrites = .next t.withoutBusyWrites

/-- R43: a read, of an idle or a busy OWM, gives the register's value on `reg_rdata` and changes nothing else; and while
`BUSY = 1` a read of `STATUS` shows `BUSY = 1`, `DONE`, `ERR`, `ECODE` and `EINFO` 0, `WAITHIGH` live, and the old
`PRESENCE`, `BIT`, `LAST`, `RES`. -/
def Obligations.HostReadsHaveNoSideEffect : Prop :=
  (∀ (s : State) (off : BitVec 4) (rest : List Input), s.busy = false → s.inputs = .host (.read off) :: rest →
      step s = .next { s with inputs := rest, rdata := s.hostRead off })
    ∧ (∀ (s : State) (off : BitVec 4) (rest : List Input), s.seq.timed = true →
        s.inputs = .during (.read off) :: rest →
        step s = .next { s with inputs := rest, rdata := s.hostRead off })
    ∧ ∀ s : State, s.Inv → s.busy = true →
        s.hostRead offStatus = 0#18 ++ s.res ++ 0#5 ++ BitVec.ofBool s.waitHigh ++ BitVec.ofBool s.last
          ++ BitVec.ofBool s.bit ++ BitVec.ofBool s.presence ++ 1#3

/-- R43, R263: as long as OWM stays busy, no step changes a result register, a result flag or `PRESENCE`. -/
def Obligations.ResultsStayOldWhileBusy : Prop :=
  ∀ s t : State, s.busy = true → step s = .next t → t.busy = true → sameResults s t ∧ t.presence = s.presence

/-- R290, R291, R45: `rst` puts every register at its reset value, releases the line and makes OWM idle, whether it was
idle or in the middle of an operation, with no `DONE` and no error. The pin trace of an operation that `rst` abandons is
the trace so far, with the part of a running delay that has passed (R10, V-RST2). (The model's choices: the hidden state
and `reg_rdata` take the values that log entries 6 and 9 name, an idle `rst` keeps the last operation's trace, log entry
10, what goes on is log entry 15, and how the time inside a delay is given is log entry 18.) -/
def Obligations.RstRestoresTheResetState : Prop :=
  (∀ (s : State) (t : Nat) (rest : List Input), s.busy = false →
      (s.inputs = .host (.rst t) :: rest ∨ s.inputs = .during (.rst t) :: rest) →
      step s = .next { State.reset with inputs := rest, freeIx := s.freeIx, trace := s.trace })
    ∧ ∀ (s : State) (t : Nat) (rest : List Input), s.seq.timed = true → s.inputs = .during (.rst t) :: rest →
      step s = .next { State.reset with
        inputs := rest, freeIx := s.freeIx,
        trace := if min t s.hid.tmr = 0 then s.trace else .delay (min t s.hid.tmr) :: s.trace }

/-- R45: after reset every register of the map reads 0, OWM is idle and the line is released. -/
def Obligations.ResetRegistersReadZero : Prop :=
  (∀ off : BitVec 4, State.reset.hostRead off = 0#32) ∧ State.reset.seq = .idle ∧ State.reset.owDriveLow = false

/-- R40, R25, R63, R28, R42: the register map. Each offset shows the state the table gives it (word offset: byte offset
divided by 4), `ADDR` and `CONFLICT` with the low word first, `BUF` packed little-endian; unmapped offsets read 0. A host
write to an idle OWM stores to its register and to no other and changes nothing outside the map; read-only and unmapped
offsets ignore it. -/
def Obligations.HostWritesStoreToTheirRegister : Prop :=
  (∀ s : State, s.hostRead 0#4 = s.cmd ∧ s.hostRead 1#4 = s.statusWord ∧ s.hostRead 2#4 = 0#24 ++ s.data
      ∧ s.hostRead 3#4 = 0#24 ++ s.crc
      ∧ s.hostRead 4#4 = s.addr.extractLsb' 0 32 ∧ s.hostRead 5#4 = s.addr.extractLsb' 32 32
      ∧ s.hostRead 6#4 = s.conflict.extractLsb' 0 32 ∧ s.hostRead 7#4 = s.conflict.extractLsb' 32 32
      ∧ s.hostRead 8#4 = s.buf[3] ++ s.buf[2] ++ s.buf[1] ++ s.buf[0]
      ∧ s.hostRead 9#4 = s.buf[7] ++ s.buf[6] ++ s.buf[5] ++ s.buf[4] ∧ s.hostRead 10#4 = 0#24 ++ s.buf[8])
    ∧ (∀ (s : State) (off : BitVec 4), 11 ≤ off.toNat → s.hostRead off = 0#32)
    ∧ ∀ (s : State) (off : BitVec 4) (w : Word) (rest : List Input), s.busy = false → off ≠ 0#4 →
      s.inputs = .host (.write off w) :: rest →
      ∃ t, step s = .next t
        ∧ t = { s with inputs := rest, data := t.data, addr := t.addr, conflict := t.conflict, buf := t.buf }
        ∧ (writable off = true → t.hostRead off = stored off w)
        ∧ (writable off = false → t = { s with inputs := rest })
        ∧ ∀ off', off' ≠ off → t.hostRead off' = s.hostRead off'

/-- R29: the bits of `STATUS`. -/
def Obligations.StatusBitsAreWhereTheTableSays : Prop :=
  ∀ s : State, s.statusWord.getLsbD 0 = s.busy ∧ s.statusWord.getLsbD 1 = s.done ∧ s.statusWord.getLsbD 2 = s.err
    ∧ s.statusWord.getLsbD 3 = s.presence ∧ s.statusWord.getLsbD 4 = s.bit ∧ s.statusWord.getLsbD 5 = s.last
    ∧ s.statusWord.getLsbD 6 = s.waitHigh ∧ s.statusWord.getLsbD 7 = false
    ∧ s.statusWord.extractLsb' 8 4 = s.ecode ∧ s.statusWord.extractLsb' 12 2 = s.res
    ∧ s.statusWord.extractLsb' 14 2 = 0#2 ∧ s.statusWord.extractLsb' 16 8 = s.einfo
    ∧ s.statusWord.extractLsb' 24 8 = 0#8

/-! ## Invariants and whole-machine rules -/

/-- R29, R45: the state after reset meets the invariant. -/
def Obligations.ResetMeetsTheInvariant : Prop := State.reset.Inv

/-- R29, R26, R243, and R131, R247 (the spec's own inferences): every step keeps the invariant: what the indication can
show, where the sequencer can stand, where the line can be driven. -/
def Obligations.StepKeepsTheInvariant : Prop :=
  ∀ s t : State, s.Inv → step s = .next t → t.Inv

/-- R47, R21: an operation leaves `ADDR` as it was or puts 8 bytes with `Crc8` 0 into it. (`rst` puts 0, which passes.)
-/
def Obligations.AddressesWrittenPassTheirCheck : Prop :=
  ∀ (i : Instr) (s t : State), exec i s = .next t → t.addr = s.addr ∨ crc8 (bytesOf t.addr) = 0#8

/-- R262, R263: an operation that ends with an error changed no result register and no result flag; OWM is idle, the line
is released, `DONE = 1`. -/
def Obligations.FailedOperationChangesOnlyStatus : Prop :=
  ∀ (i : Instr) (s t : State), exec i s = .next t → t.err = true →
    sameResults s t ∧ t.cmd = encode i ∧ t.done = true ∧ t.seq = .idle ∧ t.owDriveLow = false

/-- R21 to R27, R263, R174: an operation that is not reset changes no result register or flag but those its rule names,
and `PRESENCE` only if it performs an initialization sequence. -/
def Obligations.OperationWritesOnlyItsOwnResults : Prop :=
  ∀ (i : Instr) (s t : State), s.noRst → exec i s = .next t →
    (writesAddr i = false → t.addr = s.addr) ∧ (writesConflict i = false → t.conflict = s.conflict ∧ t.last = s.last)
      ∧ (writesData i = false → t.data = s.data) ∧ (writesCrc i = false → t.crc = s.crc)
      ∧ (writesBuf i = false → t.buf = s.buf) ∧ (writesBit i = false → t.bit = s.bit)
      ∧ (writesRes i = false → t.res = s.res) ∧ (hasInitSeq i = false → t.presence = s.presence)

/-- R266 (the spec's own inference), R260: an operation ends only with an error that its row of the table allows, with
that error's code and payload. -/
def Obligations.ErrorsAreThoseOfTheTable : Prop :=
  ∀ (i : Instr) (s t : State), i.wellFormed = true → exec i s = .next t → t.err = true →
    ∃ e, mayRaise i e = true ∧ t.ecode = e.code ∧ t.einfo = e.info

/-- R250, R123: an operation that is not reset has ended, or it waits in `AwaitHigh`; an operation without an
initialization sequence never waits (R307). That one step leaves a waiting operation when no answer of the line is to come
is the model's choice, log entry 4. -/
def Obligations.OperationEndsOrWaitsForTheLine : Prop :=
  ∀ (i : Instr) (s t : State), s.noRst → exec i s = .next t →
    (t.seq = .idle ∧ t.done = true)
      ∨ (hasInitSeq i = true ∧ t.seq = .waitHigh ∧ t.done = false ∧ t.err = false ∧ sameResults s t
          ∧ ∀ p, t.inputs.head? ≠ some (.pins p))

/-- R126, R10: an operation ends with `PinFault` exactly when its trace ends with a faulted event, whose payload is
`EINFO`; a faulted event is nowhere else in a trace. -/
def Obligations.FaultedEventIsTheLastOne : Prop :=
  ∀ (i : Instr) (s t : State), s.noRst → exec i s = .next t →
    (t.ecode = 1#4 → t.trace.head? = some (.faulted t.einfo))
      ∧ (∀ c, t.trace.head? = some (.faulted c) → t.ecode = 1#4 ∧ t.einfo = c)
      ∧ ∀ c, PinEvent.faulted c ∉ t.trace.tail

/-- R310 (the spec's own inference; zero for operations without pin events is the model's choice, log entry 11): how
long a successful operation lasts, to the nanosecond. It comes from the intervals of R121, R122, R124 and R125, the byte
and triplet counts of R99, R142, R143 and R190, the address prefix of R210, the polls of R215 and the 10 ms of R222. -/
def Obligations.SuccessLastsItsTime : Prop :=
  ∀ (i : Instr) (s t : State), s.noRst → exec i s = .next t → t.done = true → t.err = false →
    (isRecall i = false → duration t.pinTrace = stdTime i)
      ∧ (isRecall i = true → ∃ p, 1 ≤ p ∧ p ≤ 143 ∧ duration t.pinTrace = stdTime i + 70000 * p)

/-! ## Completion: each operation on a line that answers -/

/-- R244: `NOP` performs no pin event, writes no register, sets `DONE` and clears the error indication; the zero in `CMD`
after reset runs no `NOP`: with nothing to come, OWM stays as reset left it. -/
def Obligations.NopOnlyClearsTheIndication : Prop :=
  (∀ s : State, exec .nop s = .next (s.endedOk 0x00000000#32 0 [] fun u => u))
    ∧ step State.reset = .next State.reset ∧ State.reset.done = false

/-- R127, R122: `INIT` performs the initialization sequence and reports the presence sample; absence is no error. -/
def Obligations.InitReportsPresence : Prop :=
  ∀ (s : State) (m : Nat), s.quiet (initAnswers m) → s.risesAfter m →
    exec .init s = .next (s.endedOk 0x00000001#32 (initAnswers m) (initTrace Config.profile (s.presenceAt m))
      fun u => { u with presence := !s.presenceAt m })

/-- R128, R124, R129, R125: `RBIT` is one read slot and puts the sampled level into `BIT`; `WBIT b` is one write slot and
writes nothing. -/
def Obligations.BitOperationsAreOneSlot : Prop :=
  (∀ s : State, s.quiet 3 →
      exec .rbit s = .next (s.endedOk 0x00000002#32 3 (readSlotTrace Config.profile (s.readAt 0))
        fun u => { u with bit := s.readAt 0 }))
    ∧ ∀ (s : State) (b : Bool), s.quiet 2 →
      exec (.wbit b) s = .next (s.endedOk (encode (.wbit b)) 2 (writeSlotTrace Config.profile b) fun u => u)

/-- R146, R140, R147, R141: `RBYTE` puts into `DATA` the byte whose bit `j` was sampled in slot `j`; `WBYTE` sends the 8
bits of its immediate, bit 0 first, and writes nothing. -/
def Obligations.ByteOperationsAreLsbFirst : Prop :=
  (∀ s : State, s.quiet 24 →
      exec .rbyte s = .next (s.endedOk 0x00000004#32 24 (readByteTrace (s.byteAt 0))
        fun u => { u with data := s.byteAt 0 }))
    ∧ ∀ (s : State) (v : Byte), s.quiet 16 →
      exec (.wbyte v) s = .next (s.endedOk (encode (.wbyte v)) 16 (writeByteTrace v) fun u => u)

/-- R148, R149: `RBYTES n` stores the bytes read to `BUF[0..n-1]`, and `BUF[n..8]` keeps its values; `WBYTES n` sends
`BUF[0..n-1]` in index order and writes nothing. -/
def Obligations.TransfersMoveAPrefixOfBuf : Prop :=
  ∀ (s : State) (n : BitVec 4), n.toNat ≤ 9 →
    (s.quiet (24 * n.toNat) →
      ∃ b : Vector Byte 9,
        exec (.rbytes n) s = .next (s.endedOk (encode (.rbytes n)) (24 * n.toNat)
            (readBytesTrace (s.bytesAt 0 n.toNat)) fun u => { u with buf := b })
          ∧ ∀ (k : Nat) (hk : k < 9), b[k] = if k < n.toNat then s.byteAt (24 * k) else s.buf[k])
      ∧ (s.quiet (16 * n.toNat) →
        exec (.wbytes n) s = .next (s.endedOk (encode (.wbytes n)) (16 * n.toNat)
          (writeBytesTrace (s.buf.toList.take n.toNat)) fun u => u))

/-- R158, R159: `CRC n` writes `Crc8(BUF[0..n-1])` to the register `CRC`; `CRCCHK n` writes no register, it succeeds when
`Crc8(BUF[0..n-1])` is 0 and else ends with `ChecksumMismatch` and the remainder. Neither performs a pin event. -/
def Obligations.CrcOperationsWorkOnAPrefixOfBuf : Prop :=
  ∀ (s : State) (n : BitVec 4), n.toNat ≤ 9 →
    exec (.crc n) s = .next (s.endedOk (encode (.crc n)) 0 [] fun u => { u with crc := crc8 (s.buf.toList.take n.toNat) })
      ∧ (crc8 (s.buf.toList.take n.toNat) = 0#8 →
        exec (.crcchk n) s = .next (s.endedOk (encode (.crcchk n)) 0 [] fun u => u))
      ∧ (crc8 (s.buf.toList.take n.toNat) ≠ 0#8 →
        exec (.crcchk n) s = .next (s.endedError (encode (.crcchk n)) 0 [] none
          (.checksumMismatch (crc8 (s.buf.toList.take n.toNat)))))

/-- R91, R148, R149, R158, R159: a term with a count over 9, which no word decodes to, ends with `IllegalCommand`.
(The rules give that error to the word; that the term does the same is the model's choice, log entry 16.) -/
def Obligations.CountsOverNineAreIllegal : Prop :=
  ∀ (s : State) (i : Instr), i.wellFormed = false →
    exec i s = .next (s.endedError (encode i) 0 [] none (.illegalCommand i.opc))

/-- R170: `READ_ROM` reads 8 bytes after its command byte; they become `ADDR`, byte 0 the least significant, if their
`Crc8` is 0; else `ChecksumMismatch` with the remainder, and `ADDR` is unchanged. -/
def Obligations.ReadRomReadsAnAddress : Prop :=
  ∀ (s : State) (m : Nat) (a : Word64), s.quiet (initAnswers m + 16 + 192) → s.risesAfter m →
    s.presenceAt m = false → s.bytesAt (initAnswers m + 16) 8 = bytesOf a →
    (crc8 (bytesOf a) = 0#8 →
        exec .readRom s = .next (s.endedOk 0x00000033#32 (initAnswers m + 16 + 192)
          (initTrace Config.profile false ++ writeByteTrace 0x33#8 ++ readBytesTrace (bytesOf a))
          fun u => { u with presence := true, addr := a }))
      ∧ (crc8 (bytesOf a) ≠ 0#8 →
        exec .readRom s = .next (s.endedError 0x00000033#32 (initAnswers m + 16 + 192)
          (initTrace Config.profile false ++ writeByteTrace 0x33#8 ++ readBytesTrace (bytesOf a)) (some true)
          (.checksumMismatch (crc8 (bytesOf a)))))

/-- R171: `MATCH_ROM` with a valid `ADDR` sends 0x55 and the 8 bytes of `ADDR`, and writes nothing but `PRESENCE`. -/
def Obligations.MatchRomSendsTheAddress : Prop :=
  ∀ (s : State) (m : Nat), crc8 (bytesOf s.addr) = 0#8 → s.quiet (initAnswers m + 16 + 128) → s.risesAfter m →
    s.presenceAt m = false →
    exec .matchRom s = .next (s.endedOk 0x00000055#32 (initAnswers m + 16 + 128)
      (initTrace Config.profile false ++ writeByteTrace 0x55#8 ++ writeBytesTrace (bytesOf s.addr))
      fun u => { u with presence := true })

/-- R172: `SKIP_ROM` sends 0xCC and writes nothing but `PRESENCE`. -/
def Obligations.SkipRomSendsOneByte : Prop :=
  ∀ (s : State) (m : Nat), s.quiet (initAnswers m + 16) → s.risesAfter m → s.presenceAt m = false →
    exec .skipRom s = .next (s.endedOk 0x000000CC#32 (initAnswers m + 16)
      (initTrace Config.profile false ++ writeByteTrace 0xCC#8) fun u => { u with presence := true })

/-- R190, R191: a search pass over 64 triplets. `ADDR`, `CONFLICT` and `LAST` take the pass's results if the assembled
address passes its check, else `ChecksumMismatch` and they keep their values. `ALARM_SEARCH` differs in its command
byte only. -/
def Obligations.SearchPassDeliversItsAddress : Prop :=
  ∀ (s : State) (m : Nat) (i : Instr) (a wmask : Word64), i = .searchRom ∨ i = .alarmSearch →
    s.quiet (initAnswers m + 16 + 512) → s.risesAfter m → s.presenceAt m = false →
    searchPass s.conflict (s.readsAt (initAnswers m + 16)) = some (a, wmask) →
    (crc8 (bytesOf a) = 0#8 →
        exec i s = .next (s.endedOk (encode i) (initAnswers m + 16 + 512)
          (initTrace Config.profile false ++ writeByteTrace (if i = .searchRom then 0xF0#8 else 0xEC#8)
            ++ tripletsTrace s.conflict (s.readsAt (initAnswers m + 16)))
          fun u => { u with presence := true, addr := a, conflict := wmask, last := wmask == 0#64 }))
      ∧ (crc8 (bytesOf a) ≠ 0#8 →
        exec i s = .next (s.endedError (encode i) (initAnswers m + 16 + 512)
          (initTrace Config.profile false ++ writeByteTrace (if i = .searchRom then 0xF0#8 else 0xEC#8)
            ++ tripletsTrace s.conflict (s.readsAt (initAnswers m + 16))) (some true)
          (.checksumMismatch (crc8 (bytesOf a)))))

/-- R187, R190: the first `(1,1)` pair of a pass ends it with `NoDevice` right after its second read slot. -/
def Obligations.SearchWithNobodyAnsweringFails : Prop :=
  ∀ (s : State) (m k : Nat) (i : Instr), i = .searchRom ∨ i = .alarmSearch → k < 64 →
    s.quiet (initAnswers m + 16 + 8 * k + 6) → s.risesAfter m → s.presenceAt m = false →
    (∀ j, j < k → s.readsAt (initAnswers m + 16) j ≠ (true, true)) → s.readsAt (initAnswers m + 16) k = (true, true) →
    exec i s = .next (s.endedError (encode i) (initAnswers m + 16 + 8 * k + 6)
      (initTrace Config.profile false ++ writeByteTrace (if i = .searchRom then 0xF0#8 else 0xEC#8)
        ++ (List.range k).flatMap (tripletTrace s.conflict (s.readsAt (initAnswers m + 16)))
        ++ readSlotTrace Config.profile true ++ readSlotTrace Config.profile true) (some true) .noDevice)

/-- R211, R222, R210: `CONVERT_T` ends after its command byte; `COPY_SP` holds the released line for 10 ms more. Neither
writes a register. -/
def Obligations.ConvertAndCopySendTheirByte : Prop :=
  ∀ (s : State) (m : Nat) (am : AddrMode), s.addressable am m → s.quiet (addrAnswers am m + 16) →
    exec (.convertT am) s = .next (s.endedOk (encode (.convertT am)) (addrAnswers am m + 16)
        (addrTrace am s.addr ++ writeByteTrace 0x44#8) fun u => { u with presence := addrPresence am s.presence })
      ∧ exec (.copySp am) s = .next (s.endedOk (encode (.copySp am)) (addrAnswers am m + 16)
        (addrTrace am s.addr ++ writeByteTrace 0x48#8 ++ [.delay 10000000])
        fun u => { u with presence := addrPresence am s.presence })

/-- R220, R210: `READ_POWER` puts the level of one read slot into `BIT`. -/
def Obligations.ReadPowerSamplesOneSlot : Prop :=
  ∀ (s : State) (m : Nat) (am : AddrMode), s.addressable am m → s.quiet (addrAnswers am m + 16 + 3) →
    exec (.readPower am) s = .next (s.endedOk (encode (.readPower am)) (addrAnswers am m + 16 + 3)
      (addrTrace am s.addr ++ writeByteTrace 0xB4#8
        ++ readSlotTrace Config.profile (s.readAt (addrAnswers am m + 16)))
      fun u => { u with presence := addrPresence am s.presence, bit := s.readAt (addrAnswers am m + 16) })

/-- R215, R218: `RECALL_E2` succeeds at its first poll that reads 1, at the latest at poll 143, with `BIT = 1`. -/
def Obligations.RecallEndsAtTheFirstReadyPoll : Prop :=
  ∀ (s : State) (m p : Nat) (am : AddrMode), s.addressable am m → p < 143 →
    s.quiet (addrAnswers am m + 16 + 3 * (p + 1)) →
    (∀ k, k < p → s.readAt (addrAnswers am m + 16 + 3 * k) = false) →
    s.readAt (addrAnswers am m + 16 + 3 * p) = true →
    exec (.recallE2 am) s = .next (s.endedOk (encode (.recallE2 am)) (addrAnswers am m + 16 + 3 * (p + 1))
      (addrTrace am s.addr ++ writeByteTrace 0xB8#8
        ++ (List.replicate p (readSlotTrace Config.profile false)).flatten ++ readSlotTrace Config.profile true)
      fun u => { u with presence := addrPresence am s.presence, bit := true })

/-- R215, R218: `RECALL_E2` ends with `Timeout` after exactly 143 polls that read 0. -/
def Obligations.RecallTimesOutAfter143Polls : Prop :=
  ∀ (s : State) (m : Nat) (am : AddrMode), s.addressable am m → s.quiet (addrAnswers am m + 16 + 429) →
    (∀ k, k < 143 → s.readAt (addrAnswers am m + 16 + 3 * k) = false) →
    exec (.recallE2 am) s = .next (s.endedError (encode (.recallE2 am)) (addrAnswers am m + 16 + 429)
      (addrTrace am s.addr ++ writeByteTrace 0xB8#8
        ++ (List.replicate 143 (readSlotTrace Config.profile false)).flatten)
      (if am = .noAddr then none else some true) .timeout)

/-- R224, R225: `READ_SP` reads 9 bytes; with `Crc8` 0 and a known configuration byte they become `BUF` and `RES` the
index of the pattern; a bad CRC is reported first; a bad configuration byte is reported with its value. On an error `BUF`
and `RES` keep their values. -/
def Obligations.ReadSpValidatesTheScratchpad : Prop :=
  ∀ (s : State) (m : Nat) (am : AddrMode) (b : Vector Byte 9), s.addressable am m →
    s.quiet (addrAnswers am m + 16 + 216) → s.bytesAt (addrAnswers am m + 16) 9 = b.toList →
    (∀ idx, crc8 b.toList = 0#8 → b[4] = configByte idx →
        exec (.readSp am) s = .next (s.endedOk (encode (.readSp am)) (addrAnswers am m + 16 + 216)
          (addrTrace am s.addr ++ writeByteTrace 0xBE#8 ++ readBytesTrace b.toList)
          fun u => { u with presence := addrPresence am s.presence, buf := b, res := idx }))
      ∧ (crc8 b.toList ≠ 0#8 →
        exec (.readSp am) s = .next (s.endedError (encode (.readSp am)) (addrAnswers am m + 16 + 216)
          (addrTrace am s.addr ++ writeByteTrace 0xBE#8 ++ readBytesTrace b.toList)
          (if am = .noAddr then none else some true) (.checksumMismatch (crc8 b.toList))))
      ∧ (crc8 b.toList = 0#8 → (∀ idx, b[4] ≠ configByte idx) →
        exec (.readSp am) s = .next (s.endedError (encode (.readSp am)) (addrAnswers am m + 16 + 216)
          (addrTrace am s.addr ++ writeByteTrace 0xBE#8 ++ readBytesTrace b.toList)
          (if am = .noAddr then none else some true) (.invalidConfig b[4])))

/-- R228: `WRITE_SP` with a known configuration byte in `BUF[4]` sends `BUF[2]`, `BUF[3]`, `BUF[4]` after its command
byte and writes no register. -/
def Obligations.WriteSpSendsThreeBytes : Prop :=
  ∀ (s : State) (m : Nat) (am : AddrMode) (idx : BitVec 2), s.addressable am m → s.buf[4] = configByte idx →
    s.quiet (addrAnswers am m + 16 + 48) →
    exec (.writeSp am) s = .next (s.endedOk (encode (.writeSp am)) (addrAnswers am m + 16 + 48)
      (addrTrace am s.addr ++ writeByteTrace 0x4E#8 ++ writeBytesTrace [s.buf[2], s.buf[3], s.buf[4]])
      fun u => { u with presence := addrPresence am s.presence })

/-! ## Errors of the line and of the operands -/

/-- R173, R264: without a presence pulse every operation with a prologue ends with `NoDevice` right after the
initialization sequence, `PRESENCE = 0`; nothing of the command is sent. -/
def Obligations.AbsentBusEndsWithNoDevice : Prop :=
  ∀ (s : State) (m : Nat) (i : Instr), hasInitSeq i = true → i ≠ .init →
    (checksAddr i = true → crc8 (bytesOf s.addr) = 0#8) →
    (checksConfig i = true → ∃ idx, s.buf[4] = configByte idx) →
    s.quiet (initAnswers m) → s.risesAfter m → s.presenceAt m = true →
    exec i s = .next (s.endedError (encode i) (initAnswers m) (initTrace Config.profile true) (some false) .noDevice)

/-- R171, R210, R228, R265: the operand checks come before any pin event, `ADDR` before `BUF[4]`; a failed check sends
nothing, looks at nothing and leaves `PRESENCE` as it was. -/
def Obligations.OperandChecksComeFirst : Prop :=
  (∀ (s : State) (i : Instr), checksAddr i = true → crc8 (bytesOf s.addr) ≠ 0#8 →
      exec i s = .next (s.endedError (encode i) 0 [] none (.checksumMismatch (crc8 (bytesOf s.addr)))))
    ∧ ∀ (s : State) (i : Instr), checksConfig i = true → (checksAddr i = true → crc8 (bytesOf s.addr) = 0#8) →
        (∀ idx, s.buf[4] ≠ configByte idx) →
        exec i s = .next (s.endedError (encode i) 0 [] none (.invalidConfig s.buf[4]))

/-- R126, R262, R265: a pin fault at the first look of an operation ends it at once with the payload of the pad. For an
operation that starts with `AwaitHigh` the trace is `X(c)` with no `W` before it: log entry 21 (DEDUCED from R10). -/
def Obligations.PinFaultAtTheFirstLookEndsTheOperation : Prop :=
  ∀ (s : State) (i : Instr) (p : Pins) (rest : List Input), i.wellFormed = true → hasPinEvent i = true →
    (checksAddr i = true → crc8 (bytesOf s.addr) = 0#8) →
    (checksConfig i = true → ∃ idx, s.buf[4] = configByte idx) →
    s.inputs = .pins p :: rest → p.pinFault = true →
    exec i s = .next (s.endedError (encode i) 1 [.faulted p.pinErr] none (.pinFault p.pinErr))

/-- R123, R307: on a line that stays low an operation that starts with `AwaitHigh` waits, `BUSY = 1` and `WAITHIGH = 1`,
with every result as before. That the one step of the operation ends in this state once the low answers are used up is the
model's choice, log entry 4. -/
def Obligations.StuckLowLineKeepsOwmWaiting : Prop :=
  ∀ (s : State) (i : Instr), hasInitSeq i = true → (checksAddr i = true → crc8 (bytesOf s.addr) = 0#8) →
    (checksConfig i = true → ∃ idx, s.buf[4] = configByte idx) →
    (∀ x ∈ s.inputs, ∃ c, x = .pins ⟨false, false, c⟩) →
    ∃ t, exec i s = .next t ∧ t.busy = true ∧ t.waitHigh = true ∧ t.done = false ∧ t.err = false ∧ t.cmd = encode i
      ∧ sameResults s t ∧ t.presence = s.presence ∧ t.trace = [] ∧ t.inputs = []

/-- R249, R262: a pin fault in the middle of an operation: the sequencer releases the line in the same move, performs
nothing more, and reports the fault; every result is as before. `PRESENCE` takes the sample from the latch of log entry 8
(DEDUCED), in `AwaitHigh` the trace shows `X(c)` without `W`, log entry 21 (DEDUCED), and a `CMD` that decodes is assumed
because of the states of log entry 20. -/
def Obligations.PinFaultAbortsInAnyPhase : Prop :=
  ∀ (s : State) (i : Instr) (p : Pins) (rest : List Input), decode s.cmd = .ok i →
    s.pinEventDue → s.inputs = .pins p :: rest → p.pinFault = true →
    ∃ t u, step s = .next t ∧ t.owDriveLow = false ∧ t.trace = .faulted p.pinErr :: s.trace ∧ step t = .next u
      ∧ u.busy = false ∧ u.done = true ∧ u.err = true ∧ u.ecode = 1#4 ∧ u.einfo = p.pinErr ∧ sameResults s u
      ∧ u.trace = t.trace ∧ u.inputs = rest ∧ u.presence = s.hid.presence.getD s.presence

/-! ## Data functions -/

/-- R157: the self-check law. -/
def Obligations.CrcOfDataAndItsCrcIsZero : Prop :=
  ∀ d : List Byte, crc8 (d ++ [crc8 d]) = 0#8

/-- R155's two forms: the bit-serial form, bits least significant first, gives the same remainder for every input. (That
they agree is a sentence of R155 the spec marks as its own inference.) -/
def Obligations.CrcSerialFormAgrees : Prop :=
  ∀ (c : Byte) (d : List Byte), (d.flatMap bitsOf).foldl crcBit c = crcFrom c d

/-- R161 (the spec's own inferences): all-zero blocks have remainder 0, all-ones blocks do not, the single-byte values,
and a single flipped bit changes the remainder. -/
def Obligations.CrcPropertiesOfR161 : Prop :=
  (∀ n, crc8 (List.replicate n 0x00#8) = 0#8) ∧ crc8 (List.replicate 8 0xFF#8) = 0xC9#8
    ∧ crc8 (List.replicate 9 0xFF#8) = 0x63#8 ∧ crc8 [0x01#8] = 0x5E#8 ∧ crc8 [0x80#8] = 0x8C#8
    ∧ crc8 [0xFF#8] = 0x35#8 ∧ crc8 [0x28#8] = 0xE1#8
    ∧ ∀ (l r : List Byte) (v : Byte) (k : Nat), k < 8 →
        crc8 (l ++ (v ^^^ BitVec.twoPow 8 k) :: r) ≠ crc8 (l ++ v :: r)

/-- R47, R62, R8: an address and its 8 bytes correspond, both ways. -/
def Obligations.AddressBytesRoundTrip : Prop :=
  (∀ a : Word64, addrOfBytes (bytesOf a) = a)
    ∧ (∀ l : List Byte, l.length = 8 → bytesOf (addrOfBytes l) = l)
    ∧ ∀ (a : Word64) (k j : Nat) (hk : k < (bytesOf a).length), j < 8 →
        ((bytesOf a)[k]).getLsbD j = a.getLsbD (8 * k + j)

/-- R49, R225: each of the four patterns decodes to its index and encodes back to itself; every other byte is invalid. -/
def Obligations.ConfigBytesRoundTrip : Prop :=
  (∀ i : BitVec 2, configIndex (configByte i) = some i)
    ∧ (∀ (v : Byte) (i : BitVec 2), configIndex v = some i → v = configByte i)
    ∧ configByte 0#2 = 0x1F#8 ∧ configByte 1#2 = 0x3F#8 ∧ configByte 2#2 = 0x5F#8 ∧ configByte 3#2 = 0x7F#8

/-- R130 (the spec's own inference): with a well-formed profile every read slot and every write slot lasts exactly
`SLOT`. -/
def Obligations.EverySlotLastsTheSame : Prop :=
  ∀ (P : Profile), P.wellFormed = true →
    (∀ s : State, s.quiet 3 → ∃ b t, readBit P s = .ok b t ∧ duration t.trace = duration s.trace + P.slot)
      ∧ ∀ (s : State) (b : Bool), s.quiet 2 →
          ∃ t, writeBit P b s = .ok () t ∧ duration t.trace = duration s.trace + P.slot

/-! ## The search -/

/-- R187, R188: the turning point, the bit chosen and the working mask, case by case. -/
def Obligations.TieBreakFollowsTheFourCases : Prop :=
  (∀ m : Word64, (highestSet m = none ↔ m = 0#64)
      ∧ ∀ l, highestSet m = some l ↔ m.getLsbD l = true ∧ ∀ j, l < j → m.getLsbD j = false)
    ∧ ∀ (m wmask : Word64) (last : Option Nat) (i : Nat), i < 64 →
      (∀ r1 r2, (r1 || r2) = true → searchChoice m last i r1 r2 = r1)
        ∧ (∀ l, last = some l → i < l → searchChoice m last i false false = !(m.getLsbD i)
            ∧ searchMask last i false false wmask = wmask)
        ∧ (last = some i → searchChoice m last i false false = true)
        ∧ ((last = none ∨ ∃ l, last = some l ∧ l < i) → searchChoice m last i false false = false
            ∧ (searchMask last i false false wmask).getLsbD i = true
            ∧ ∀ j, j ≠ i → (searchMask last i false false wmask).getLsbD j = wmask.getLsbD j)
        ∧ (last = some i → ∀ r1 r2, (searchMask last i r1 r2 wmask).getLsbD i = false
            ∧ ∀ j, j ≠ i → (searchMask last i r1 r2 wmask).getLsbD j = wmask.getLsbD j)
        ∧ (last ≠ some i → ∀ r1 r2, (r1 || r2) = true → searchMask last i r1 r2 wmask = wmask)

/-- R304 (the spec's own inference): on a line that reads 0 in every slot a first pass succeeds with `ADDR = 0`, every
mask bit set, `LAST = 0`, and `PRESENCE = 1`. -/
def Obligations.StuckZeroLineFillsTheMask : Prop :=
  ∀ (s : State) (m : Nat), s.conflict = 0#64 → s.quiet (initAnswers m + 16 + 512) → s.risesAfter m →
    (∀ k, m < k → k < initAnswers m + 16 + 512 → s.level k = false) →
    ∃ t, exec .searchRom s = .next t ∧ t.err = false ∧ t.done = true ∧ t.addr = 0#64 ∧ t.conflict = BitVec.allOnes 64
      ∧ t.last = false ∧ t.presence = true

/-- R187, R189, R190: when the line answers a pass as a bus of slaves with the codes given would, the pass delivers the
address and the mask that the bus search yields. -/
def Obligations.PassOnABusDeliversASlave : Prop :=
  ∀ (s : State) (m : Nat) (codes : List Word64) (a wmask : Word64), busPass codes s.conflict = some (a, wmask) →
    crc8 (bytesOf a) = 0#8 → s.quiet (initAnswers m + 16 + 512) → s.risesAfter m → s.presenceAt m = false →
    (∀ i, i < 64 → s.readsAt (initAnswers m + 16) i = busReads (takingPart codes a i) i) →
    ∃ t, exec .searchRom s = .next t ∧ t.done = true ∧ t.err = false ∧ t.addr = a ∧ t.conflict = wmask
      ∧ t.last = (wmask == 0#64) ∧ a ∈ codes

/-- R196, R195 (the spec's own inferences): on a bus that does not change, `n` slaves with distinct codes are delivered
in exactly `n` passes from mask 0, each once, in ascending order of the bit-reversed code; the mask is 0 after the
`n`-th pass and not before. -/
def Obligations.EnumerationFindsEverySlaveOnce : Prop :=
  ∀ codes : List Word64, codes ≠ [] → codes.Nodup →
    ∃ l, busPasses codes codes.length 0#64 = some (l, 0#64) ∧ l.Perm codes
      ∧ l.Pairwise (fun a b => a.reverse.toNat < b.reverse.toNat)
      ∧ ∀ k, 0 < k → k < codes.length → ∃ l' m', busPasses codes k 0#64 = some (l', m') ∧ m' ≠ 0#64

/-! ## One operation, step by step and at once -/

/-- R251 (the spec's own inference), R246, R247; the model's choice, log entries 5 and 17: the operation as one step is
what the moves of the sequencer add up to: from the state in which the command word was accepted, some number of steps
of OWM lead to exactly the state the meaning gives. -/
def Obligations.OperationIsTheRunOfItsEvents : Prop :=
  ∀ (i : Instr) (s t : State), i.wellFormed = true → exec i s = .next t →
    ∃ n, Sys2Proof.core.run n (s.accept (encode i)) = .next t

/-- R247 (the spec's own inference), R250: a busy OWM becomes idle or is left waiting for the line to rise, in finitely
many steps. -/
def Obligations.BusyOwmEndsOrWaits : Prop :=
  ∀ s : State, s.Inv → s.busy = true →
    ∃ n t, Sys2Proof.core.run n s = .next t ∧ (t.busy = false ∨ t.waitHigh = true)

/-- R210, a sentence of it the spec marks as its own inference: a function command with `skip` ends as `SKIP_ROM` followed by the command with `none`, and with `match` as
`MATCH_ROM` followed by it: the same pin trace, the same results and flags. (`WRITE_SP` validates `BUF[4]` before the
addressing instead of after, so a known byte is assumed there; both operations are taken with every look answered.) -/
def Obligations.AddressModeIsTheAddressingOperationFirst : Prop :=
  ∀ (mk : AddrMode → Instr) (am : AddrMode) (first : Instr) (s t u : State),
    mk ∈ [Instr.convertT, Instr.recallE2, Instr.readPower, Instr.copySp, Instr.readSp, Instr.writeSp] →
    (am = .skipAddr ∧ first = .skipRom) ∨ (am = .matchAddr ∧ first = .matchRom) →
    (checksConfig (mk am) = true → ∃ idx, s.buf[4] = configByte idx) →
    (∀ x ∈ s.inputs, x.isDuring = false) →
    exec first s = .next t → t.done = true → t.err = false → t.freeIx = s.freeIx + 1 →
    exec (mk .noAddr) t = .next u → u.freeIx = s.freeIx + 2 →
    ∃ v, exec (mk am) s = .next v ∧ v.pinTrace = t.pinTrace ++ u.pinTrace ∧ sameResults u v
      ∧ v.statusWord = u.statusWord ∧ v.inputs = u.inputs

/-! ## `rst` in the middle of an operation -/

/-- R291, R10: an operation that `rst` abandons in its reset pulse has changed every register to its reset value, released
the line, and shows the trace so far: the wait, the `PinLow`, and the part of the pulse that had passed (V-RST2).
(The model's choices: how the time of `rst` inside the delay is given, log entry 18; hidden state and `reg_rdata`, log
entries 6 and 9; what goes on, log entry 15.) -/
def Obligations.RstInTheResetPulseShowsTheTraceSoFar : Prop :=
  ∀ (s : State) (i : Instr) (m t : Nat) (l rest : List Input), hasInitSeq i = true →
    (checksAddr i = true → crc8 (bytesOf s.addr) = 0#8) →
    (checksConfig i = true → ∃ idx, s.buf[4] = configByte idx) →
    s.inputs = l ++ .during (.rst t) :: rest → l.length = m + 2 → (∀ x ∈ l, x.clean = true) → s.risesAfter m →
    0 < t → t ≤ 480000 →
    exec i s = .next { State.reset with
      inputs := rest, freeIx := s.freeIx, trace := [PinEvent.awaited, .low, .delay t].reverse }
end

