-- ==== Sys2Proof/Laws/State.lean ====
section
/-! SUPPORT. The fields of State after each update: one lemma per field per update, true by rfl. -/

namespace Sys2Proof.Machine

@[simp] theorem State.emit_addr (e : PinEvent) (s : State) : (s.emit e).addr = s.addr := rfl
@[simp] theorem State.emit_conflict (e : PinEvent) (s : State) : (s.emit e).conflict = s.conflict := rfl
@[simp] theorem State.emit_data (e : PinEvent) (s : State) : (s.emit e).data = s.data := rfl
@[simp] theorem State.emit_crc (e : PinEvent) (s : State) : (s.emit e).crc = s.crc := rfl
@[simp] theorem State.emit_buf (e : PinEvent) (s : State) : (s.emit e).buf = s.buf := rfl
@[simp] theorem State.emit_cmd (e : PinEvent) (s : State) : (s.emit e).cmd = s.cmd := rfl
@[simp] theorem State.emit_done (e : PinEvent) (s : State) : (s.emit e).done = s.done := rfl
@[simp] theorem State.emit_err (e : PinEvent) (s : State) : (s.emit e).err = s.err := rfl
@[simp] theorem State.emit_presence (e : PinEvent) (s : State) : (s.emit e).presence = s.presence := rfl
@[simp] theorem State.emit_bit (e : PinEvent) (s : State) : (s.emit e).bit = s.bit := rfl
@[simp] theorem State.emit_last (e : PinEvent) (s : State) : (s.emit e).last = s.last := rfl
@[simp] theorem State.emit_ecode (e : PinEvent) (s : State) : (s.emit e).ecode = s.ecode := rfl
@[simp] theorem State.emit_res (e : PinEvent) (s : State) : (s.emit e).res = s.res := rfl
@[simp] theorem State.emit_einfo (e : PinEvent) (s : State) : (s.emit e).einfo = s.einfo := rfl
@[simp] theorem State.emit_seq (e : PinEvent) (s : State) : (s.emit e).seq = s.seq := rfl
@[simp] theorem State.emit_hid (e : PinEvent) (s : State) : (s.emit e).hid = s.hid := rfl
@[simp] theorem State.emit_owDriveLow (e : PinEvent) (s : State) : (s.emit e).owDriveLow = s.owDriveLow := rfl
@[simp] theorem State.emit_rdata (e : PinEvent) (s : State) : (s.emit e).rdata = s.rdata := rfl
@[simp] theorem State.emit_trace (e : PinEvent) (s : State) : (s.emit e).trace = e :: s.trace := rfl
@[simp] theorem State.emit_inputs (e : PinEvent) (s : State) : (s.emit e).inputs = s.inputs := rfl
@[simp] theorem State.emit_freeIx (e : PinEvent) (s : State) : (s.emit e).freeIx = s.freeIx := rfl

@[simp] theorem State.clearIndication_addr (s : State) : s.clearIndication.addr = s.addr := rfl
@[simp] theorem State.clearIndication_conflict (s : State) : s.clearIndication.conflict = s.conflict := rfl
@[simp] theorem State.clearIndication_data (s : State) : s.clearIndication.data = s.data := rfl
@[simp] theorem State.clearIndication_crc (s : State) : s.clearIndication.crc = s.crc := rfl
@[simp] theorem State.clearIndication_buf (s : State) : s.clearIndication.buf = s.buf := rfl
@[simp] theorem State.clearIndication_cmd (s : State) : s.clearIndication.cmd = s.cmd := rfl
@[simp] theorem State.clearIndication_done (s : State) : s.clearIndication.done = false := rfl
@[simp] theorem State.clearIndication_err (s : State) : s.clearIndication.err = false := rfl
@[simp] theorem State.clearIndication_presence (s : State) : s.clearIndication.presence = s.presence := rfl
@[simp] theorem State.clearIndication_bit (s : State) : s.clearIndication.bit = s.bit := rfl
@[simp] theorem State.clearIndication_last (s : State) : s.clearIndication.last = s.last := rfl
@[simp] theorem State.clearIndication_ecode (s : State) : s.clearIndication.ecode = 0#4 := rfl
@[simp] theorem State.clearIndication_res (s : State) : s.clearIndication.res = s.res := rfl
@[simp] theorem State.clearIndication_einfo (s : State) : s.clearIndication.einfo = 0#8 := rfl
@[simp] theorem State.clearIndication_seq (s : State) : s.clearIndication.seq = s.seq := rfl
@[simp] theorem State.clearIndication_hid (s : State) : s.clearIndication.hid = s.hid := rfl
@[simp] theorem State.clearIndication_owDriveLow (s : State) : s.clearIndication.owDriveLow = s.owDriveLow := rfl
@[simp] theorem State.clearIndication_rdata (s : State) : s.clearIndication.rdata = s.rdata := rfl
@[simp] theorem State.clearIndication_trace (s : State) : s.clearIndication.trace = s.trace := rfl
@[simp] theorem State.clearIndication_inputs (s : State) : s.clearIndication.inputs = s.inputs := rfl
@[simp] theorem State.clearIndication_freeIx (s : State) : s.clearIndication.freeIx = s.freeIx := rfl

@[simp] theorem State.indicateOk_addr (s : State) : s.indicateOk.addr = s.addr := rfl
@[simp] theorem State.indicateOk_conflict (s : State) : s.indicateOk.conflict = s.conflict := rfl
@[simp] theorem State.indicateOk_data (s : State) : s.indicateOk.data = s.data := rfl
@[simp] theorem State.indicateOk_crc (s : State) : s.indicateOk.crc = s.crc := rfl
@[simp] theorem State.indicateOk_buf (s : State) : s.indicateOk.buf = s.buf := rfl
@[simp] theorem State.indicateOk_cmd (s : State) : s.indicateOk.cmd = s.cmd := rfl
@[simp] theorem State.indicateOk_done (s : State) : s.indicateOk.done = true := rfl
@[simp] theorem State.indicateOk_err (s : State) : s.indicateOk.err = false := rfl
@[simp] theorem State.indicateOk_presence (s : State) : s.indicateOk.presence = s.presence := rfl
@[simp] theorem State.indicateOk_bit (s : State) : s.indicateOk.bit = s.bit := rfl
@[simp] theorem State.indicateOk_last (s : State) : s.indicateOk.last = s.last := rfl
@[simp] theorem State.indicateOk_ecode (s : State) : s.indicateOk.ecode = 0#4 := rfl
@[simp] theorem State.indicateOk_res (s : State) : s.indicateOk.res = s.res := rfl
@[simp] theorem State.indicateOk_einfo (s : State) : s.indicateOk.einfo = 0#8 := rfl
@[simp] theorem State.indicateOk_seq (s : State) : s.indicateOk.seq = s.seq := rfl
@[simp] theorem State.indicateOk_hid (s : State) : s.indicateOk.hid = s.hid := rfl
@[simp] theorem State.indicateOk_owDriveLow (s : State) : s.indicateOk.owDriveLow = s.owDriveLow := rfl
@[simp] theorem State.indicateOk_rdata (s : State) : s.indicateOk.rdata = s.rdata := rfl
@[simp] theorem State.indicateOk_trace (s : State) : s.indicateOk.trace = s.trace := rfl
@[simp] theorem State.indicateOk_inputs (s : State) : s.indicateOk.inputs = s.inputs := rfl
@[simp] theorem State.indicateOk_freeIx (s : State) : s.indicateOk.freeIx = s.freeIx := rfl

@[simp] theorem State.indicateError_addr (e : OpError) (s : State) : (s.indicateError e).addr = s.addr := rfl
@[simp] theorem State.indicateError_conflict (e : OpError) (s : State) : (s.indicateError e).conflict = s.conflict := rfl
@[simp] theorem State.indicateError_data (e : OpError) (s : State) : (s.indicateError e).data = s.data := rfl
@[simp] theorem State.indicateError_crc (e : OpError) (s : State) : (s.indicateError e).crc = s.crc := rfl
@[simp] theorem State.indicateError_buf (e : OpError) (s : State) : (s.indicateError e).buf = s.buf := rfl
@[simp] theorem State.indicateError_cmd (e : OpError) (s : State) : (s.indicateError e).cmd = s.cmd := rfl
@[simp] theorem State.indicateError_done (e : OpError) (s : State) : (s.indicateError e).done = true := rfl
@[simp] theorem State.indicateError_err (e : OpError) (s : State) : (s.indicateError e).err = true := rfl
@[simp] theorem State.indicateError_presence (e : OpError) (s : State) : (s.indicateError e).presence = s.presence := rfl
@[simp] theorem State.indicateError_bit (e : OpError) (s : State) : (s.indicateError e).bit = s.bit := rfl
@[simp] theorem State.indicateError_last (e : OpError) (s : State) : (s.indicateError e).last = s.last := rfl
@[simp] theorem State.indicateError_ecode (e : OpError) (s : State) : (s.indicateError e).ecode = e.code := rfl
@[simp] theorem State.indicateError_res (e : OpError) (s : State) : (s.indicateError e).res = s.res := rfl
@[simp] theorem State.indicateError_einfo (e : OpError) (s : State) : (s.indicateError e).einfo = e.info := rfl
@[simp] theorem State.indicateError_seq (e : OpError) (s : State) : (s.indicateError e).seq = s.seq := rfl
@[simp] theorem State.indicateError_hid (e : OpError) (s : State) : (s.indicateError e).hid = s.hid := rfl
@[simp] theorem State.indicateError_owDriveLow (e : OpError) (s : State) : (s.indicateError e).owDriveLow = s.owDriveLow := rfl
@[simp] theorem State.indicateError_rdata (e : OpError) (s : State) : (s.indicateError e).rdata = s.rdata := rfl
@[simp] theorem State.indicateError_trace (e : OpError) (s : State) : (s.indicateError e).trace = s.trace := rfl
@[simp] theorem State.indicateError_inputs (e : OpError) (s : State) : (s.indicateError e).inputs = s.inputs := rfl
@[simp] theorem State.indicateError_freeIx (e : OpError) (s : State) : (s.indicateError e).freeIx = s.freeIx := rfl

@[simp] theorem State.commitPresence_addr (s : State) : s.commitPresence.addr = s.addr := rfl
@[simp] theorem State.commitPresence_conflict (s : State) : s.commitPresence.conflict = s.conflict := rfl
@[simp] theorem State.commitPresence_data (s : State) : s.commitPresence.data = s.data := rfl
@[simp] theorem State.commitPresence_crc (s : State) : s.commitPresence.crc = s.crc := rfl
@[simp] theorem State.commitPresence_buf (s : State) : s.commitPresence.buf = s.buf := rfl
@[simp] theorem State.commitPresence_cmd (s : State) : s.commitPresence.cmd = s.cmd := rfl
@[simp] theorem State.commitPresence_done (s : State) : s.commitPresence.done = s.done := rfl
@[simp] theorem State.commitPresence_err (s : State) : s.commitPresence.err = s.err := rfl
@[simp] theorem State.commitPresence_presence (s : State) : s.commitPresence.presence = s.hid.presence.getD s.presence := rfl
@[simp] theorem State.commitPresence_bit (s : State) : s.commitPresence.bit = s.bit := rfl
@[simp] theorem State.commitPresence_last (s : State) : s.commitPresence.last = s.last := rfl
@[simp] theorem State.commitPresence_ecode (s : State) : s.commitPresence.ecode = s.ecode := rfl
@[simp] theorem State.commitPresence_res (s : State) : s.commitPresence.res = s.res := rfl
@[simp] theorem State.commitPresence_einfo (s : State) : s.commitPresence.einfo = s.einfo := rfl
@[simp] theorem State.commitPresence_seq (s : State) : s.commitPresence.seq = s.seq := rfl
@[simp] theorem State.commitPresence_hid (s : State) : s.commitPresence.hid = s.hid := rfl
@[simp] theorem State.commitPresence_owDriveLow (s : State) : s.commitPresence.owDriveLow = s.owDriveLow := rfl
@[simp] theorem State.commitPresence_rdata (s : State) : s.commitPresence.rdata = s.rdata := rfl
@[simp] theorem State.commitPresence_trace (s : State) : s.commitPresence.trace = s.trace := rfl
@[simp] theorem State.commitPresence_inputs (s : State) : s.commitPresence.inputs = s.inputs := rfl
@[simp] theorem State.commitPresence_freeIx (s : State) : s.commitPresence.freeIx = s.freeIx := rfl

@[simp] theorem State.setBitFlag_addr (b : Bool) (s : State) : (s.setBitFlag b).addr = s.addr := rfl
@[simp] theorem State.setBitFlag_conflict (b : Bool) (s : State) : (s.setBitFlag b).conflict = s.conflict := rfl
@[simp] theorem State.setBitFlag_data (b : Bool) (s : State) : (s.setBitFlag b).data = s.data := rfl
@[simp] theorem State.setBitFlag_crc (b : Bool) (s : State) : (s.setBitFlag b).crc = s.crc := rfl
@[simp] theorem State.setBitFlag_buf (b : Bool) (s : State) : (s.setBitFlag b).buf = s.buf := rfl
@[simp] theorem State.setBitFlag_cmd (b : Bool) (s : State) : (s.setBitFlag b).cmd = s.cmd := rfl
@[simp] theorem State.setBitFlag_done (b : Bool) (s : State) : (s.setBitFlag b).done = s.done := rfl
@[simp] theorem State.setBitFlag_err (b : Bool) (s : State) : (s.setBitFlag b).err = s.err := rfl
@[simp] theorem State.setBitFlag_presence (b : Bool) (s : State) : (s.setBitFlag b).presence = s.presence := rfl
@[simp] theorem State.setBitFlag_bit (b : Bool) (s : State) : (s.setBitFlag b).bit = b := rfl
@[simp] theorem State.setBitFlag_last (b : Bool) (s : State) : (s.setBitFlag b).last = s.last := rfl
@[simp] theorem State.setBitFlag_ecode (b : Bool) (s : State) : (s.setBitFlag b).ecode = s.ecode := rfl
@[simp] theorem State.setBitFlag_res (b : Bool) (s : State) : (s.setBitFlag b).res = s.res := rfl
@[simp] theorem State.setBitFlag_einfo (b : Bool) (s : State) : (s.setBitFlag b).einfo = s.einfo := rfl
@[simp] theorem State.setBitFlag_seq (b : Bool) (s : State) : (s.setBitFlag b).seq = s.seq := rfl
@[simp] theorem State.setBitFlag_hid (b : Bool) (s : State) : (s.setBitFlag b).hid = s.hid := rfl
@[simp] theorem State.setBitFlag_owDriveLow (b : Bool) (s : State) : (s.setBitFlag b).owDriveLow = s.owDriveLow := rfl
@[simp] theorem State.setBitFlag_rdata (b : Bool) (s : State) : (s.setBitFlag b).rdata = s.rdata := rfl
@[simp] theorem State.setBitFlag_trace (b : Bool) (s : State) : (s.setBitFlag b).trace = s.trace := rfl
@[simp] theorem State.setBitFlag_inputs (b : Bool) (s : State) : (s.setBitFlag b).inputs = s.inputs := rfl
@[simp] theorem State.setBitFlag_freeIx (b : Bool) (s : State) : (s.setBitFlag b).freeIx = s.freeIx := rfl

@[simp] theorem State.commitSearch_addr (a w : Word64) (s : State) : (s.commitSearch a w).addr = a := rfl
@[simp] theorem State.commitSearch_conflict (a w : Word64) (s : State) : (s.commitSearch a w).conflict = w := rfl
@[simp] theorem State.commitSearch_data (a w : Word64) (s : State) : (s.commitSearch a w).data = s.data := rfl
@[simp] theorem State.commitSearch_crc (a w : Word64) (s : State) : (s.commitSearch a w).crc = s.crc := rfl
@[simp] theorem State.commitSearch_buf (a w : Word64) (s : State) : (s.commitSearch a w).buf = s.buf := rfl
@[simp] theorem State.commitSearch_cmd (a w : Word64) (s : State) : (s.commitSearch a w).cmd = s.cmd := rfl
@[simp] theorem State.commitSearch_done (a w : Word64) (s : State) : (s.commitSearch a w).done = s.done := rfl
@[simp] theorem State.commitSearch_err (a w : Word64) (s : State) : (s.commitSearch a w).err = s.err := rfl
@[simp] theorem State.commitSearch_presence (a w : Word64) (s : State) : (s.commitSearch a w).presence = s.presence := rfl
@[simp] theorem State.commitSearch_bit (a w : Word64) (s : State) : (s.commitSearch a w).bit = s.bit := rfl
@[simp] theorem State.commitSearch_last (a w : Word64) (s : State) : (s.commitSearch a w).last = (w == 0#64) := rfl
@[simp] theorem State.commitSearch_ecode (a w : Word64) (s : State) : (s.commitSearch a w).ecode = s.ecode := rfl
@[simp] theorem State.commitSearch_res (a w : Word64) (s : State) : (s.commitSearch a w).res = s.res := rfl
@[simp] theorem State.commitSearch_einfo (a w : Word64) (s : State) : (s.commitSearch a w).einfo = s.einfo := rfl
@[simp] theorem State.commitSearch_seq (a w : Word64) (s : State) : (s.commitSearch a w).seq = s.seq := rfl
@[simp] theorem State.commitSearch_hid (a w : Word64) (s : State) : (s.commitSearch a w).hid = s.hid := rfl
@[simp] theorem State.commitSearch_owDriveLow (a w : Word64) (s : State) : (s.commitSearch a w).owDriveLow = s.owDriveLow := rfl
@[simp] theorem State.commitSearch_rdata (a w : Word64) (s : State) : (s.commitSearch a w).rdata = s.rdata := rfl
@[simp] theorem State.commitSearch_trace (a w : Word64) (s : State) : (s.commitSearch a w).trace = s.trace := rfl
@[simp] theorem State.commitSearch_inputs (a w : Word64) (s : State) : (s.commitSearch a w).inputs = s.inputs := rfl
@[simp] theorem State.commitSearch_freeIx (a w : Word64) (s : State) : (s.commitSearch a w).freeIx = s.freeIx := rfl

@[simp] theorem State.commitScratchpad_addr (r : List Byte) (i : BitVec 2) (s : State) : (s.commitScratchpad r i).addr = s.addr := rfl
@[simp] theorem State.commitScratchpad_conflict (r : List Byte) (i : BitVec 2) (s : State) : (s.commitScratchpad r i).conflict = s.conflict := rfl
@[simp] theorem State.commitScratchpad_data (r : List Byte) (i : BitVec 2) (s : State) : (s.commitScratchpad r i).data = s.data := rfl
@[simp] theorem State.commitScratchpad_crc (r : List Byte) (i : BitVec 2) (s : State) : (s.commitScratchpad r i).crc = s.crc := rfl
@[simp] theorem State.commitScratchpad_buf (r : List Byte) (i : BitVec 2) (s : State) : (s.commitScratchpad r i).buf = storeBytes s.buf 0 r := rfl
@[simp] theorem State.commitScratchpad_cmd (r : List Byte) (i : BitVec 2) (s : State) : (s.commitScratchpad r i).cmd = s.cmd := rfl
@[simp] theorem State.commitScratchpad_done (r : List Byte) (i : BitVec 2) (s : State) : (s.commitScratchpad r i).done = s.done := rfl
@[simp] theorem State.commitScratchpad_err (r : List Byte) (i : BitVec 2) (s : State) : (s.commitScratchpad r i).err = s.err := rfl
@[simp] theorem State.commitScratchpad_presence (r : List Byte) (i : BitVec 2) (s : State) : (s.commitScratchpad r i).presence = s.presence := rfl
@[simp] theorem State.commitScratchpad_bit (r : List Byte) (i : BitVec 2) (s : State) : (s.commitScratchpad r i).bit = s.bit := rfl
@[simp] theorem State.commitScratchpad_last (r : List Byte) (i : BitVec 2) (s : State) : (s.commitScratchpad r i).last = s.last := rfl
@[simp] theorem State.commitScratchpad_ecode (r : List Byte) (i : BitVec 2) (s : State) : (s.commitScratchpad r i).ecode = s.ecode := rfl
@[simp] theorem State.commitScratchpad_res (r : List Byte) (i : BitVec 2) (s : State) : (s.commitScratchpad r i).res = i := rfl
@[simp] theorem State.commitScratchpad_einfo (r : List Byte) (i : BitVec 2) (s : State) : (s.commitScratchpad r i).einfo = s.einfo := rfl
@[simp] theorem State.commitScratchpad_seq (r : List Byte) (i : BitVec 2) (s : State) : (s.commitScratchpad r i).seq = s.seq := rfl
@[simp] theorem State.commitScratchpad_hid (r : List Byte) (i : BitVec 2) (s : State) : (s.commitScratchpad r i).hid = s.hid := rfl
@[simp] theorem State.commitScratchpad_owDriveLow (r : List Byte) (i : BitVec 2) (s : State) : (s.commitScratchpad r i).owDriveLow = s.owDriveLow := rfl
@[simp] theorem State.commitScratchpad_rdata (r : List Byte) (i : BitVec 2) (s : State) : (s.commitScratchpad r i).rdata = s.rdata := rfl
@[simp] theorem State.commitScratchpad_trace (r : List Byte) (i : BitVec 2) (s : State) : (s.commitScratchpad r i).trace = s.trace := rfl
@[simp] theorem State.commitScratchpad_inputs (r : List Byte) (i : BitVec 2) (s : State) : (s.commitScratchpad r i).inputs = s.inputs := rfl
@[simp] theorem State.commitScratchpad_freeIx (r : List Byte) (i : BitVec 2) (s : State) : (s.commitScratchpad r i).freeIx = s.freeIx := rfl

@[simp] theorem State.accept_addr (w : Word) (s : State) : (s.accept w).addr = s.addr := rfl
@[simp] theorem State.accept_conflict (w : Word) (s : State) : (s.accept w).conflict = s.conflict := rfl
@[simp] theorem State.accept_data (w : Word) (s : State) : (s.accept w).data = s.data := rfl
@[simp] theorem State.accept_crc (w : Word) (s : State) : (s.accept w).crc = s.crc := rfl
@[simp] theorem State.accept_buf (w : Word) (s : State) : (s.accept w).buf = s.buf := rfl
@[simp] theorem State.accept_cmd (w : Word) (s : State) : (s.accept w).cmd = w := rfl
@[simp] theorem State.accept_done (w : Word) (s : State) : (s.accept w).done = false := rfl
@[simp] theorem State.accept_err (w : Word) (s : State) : (s.accept w).err = false := rfl
@[simp] theorem State.accept_presence (w : Word) (s : State) : (s.accept w).presence = s.presence := rfl
@[simp] theorem State.accept_bit (w : Word) (s : State) : (s.accept w).bit = s.bit := rfl
@[simp] theorem State.accept_last (w : Word) (s : State) : (s.accept w).last = s.last := rfl
@[simp] theorem State.accept_ecode (w : Word) (s : State) : (s.accept w).ecode = 0#4 := rfl
@[simp] theorem State.accept_res (w : Word) (s : State) : (s.accept w).res = s.res := rfl
@[simp] theorem State.accept_einfo (w : Word) (s : State) : (s.accept w).einfo = 0#8 := rfl
@[simp] theorem State.accept_seq (w : Word) (s : State) : (s.accept w).seq = .decode := rfl
@[simp] theorem State.accept_hid (w : Word) (s : State) : (s.accept w).hid = { s.hid with presence := none, tmr := 0 } := rfl
@[simp] theorem State.accept_owDriveLow (w : Word) (s : State) : (s.accept w).owDriveLow = s.owDriveLow := rfl
@[simp] theorem State.accept_rdata (w : Word) (s : State) : (s.accept w).rdata = s.rdata := rfl
@[simp] theorem State.accept_trace (w : Word) (s : State) : (s.accept w).trace = [] := rfl
@[simp] theorem State.accept_inputs (w : Word) (s : State) : (s.accept w).inputs = s.inputs := rfl
@[simp] theorem State.accept_freeIx (w : Word) (s : State) : (s.accept w).freeIx = s.freeIx := rfl

@[simp] theorem State.settleIdle_addr (s : State) : s.settleIdle.addr = s.addr := rfl
@[simp] theorem State.settleIdle_conflict (s : State) : s.settleIdle.conflict = s.conflict := rfl
@[simp] theorem State.settleIdle_data (s : State) : s.settleIdle.data = s.data := rfl
@[simp] theorem State.settleIdle_crc (s : State) : s.settleIdle.crc = s.crc := rfl
@[simp] theorem State.settleIdle_buf (s : State) : s.settleIdle.buf = s.buf := rfl
@[simp] theorem State.settleIdle_cmd (s : State) : s.settleIdle.cmd = s.cmd := rfl
@[simp] theorem State.settleIdle_done (s : State) : s.settleIdle.done = s.done := rfl
@[simp] theorem State.settleIdle_err (s : State) : s.settleIdle.err = s.err := rfl
@[simp] theorem State.settleIdle_presence (s : State) : s.settleIdle.presence = s.hid.presence.getD s.presence := rfl
@[simp] theorem State.settleIdle_bit (s : State) : s.settleIdle.bit = s.bit := rfl
@[simp] theorem State.settleIdle_last (s : State) : s.settleIdle.last = s.last := rfl
@[simp] theorem State.settleIdle_ecode (s : State) : s.settleIdle.ecode = s.ecode := rfl
@[simp] theorem State.settleIdle_res (s : State) : s.settleIdle.res = s.res := rfl
@[simp] theorem State.settleIdle_einfo (s : State) : s.settleIdle.einfo = s.einfo := rfl
@[simp] theorem State.settleIdle_seq (s : State) : s.settleIdle.seq = .idle := rfl
@[simp] theorem State.settleIdle_hid (s : State) : s.settleIdle.hid = Hidden.free s.freeIx := rfl
@[simp] theorem State.settleIdle_owDriveLow (s : State) : s.settleIdle.owDriveLow = false := rfl
@[simp] theorem State.settleIdle_rdata (s : State) : s.settleIdle.rdata = s.rdata := rfl
@[simp] theorem State.settleIdle_trace (s : State) : s.settleIdle.trace = s.trace := rfl
@[simp] theorem State.settleIdle_inputs (s : State) : s.settleIdle.inputs = s.inputs := rfl
@[simp] theorem State.settleIdle_freeIx (s : State) : s.settleIdle.freeIx = s.freeIx + 1 := rfl

@[simp] theorem State.finishOk_addr (s : State) : s.finishOk.addr = s.addr := rfl
@[simp] theorem State.finishOk_conflict (s : State) : s.finishOk.conflict = s.conflict := rfl
@[simp] theorem State.finishOk_data (s : State) : s.finishOk.data = s.data := rfl
@[simp] theorem State.finishOk_crc (s : State) : s.finishOk.crc = s.crc := rfl
@[simp] theorem State.finishOk_buf (s : State) : s.finishOk.buf = s.buf := rfl
@[simp] theorem State.finishOk_cmd (s : State) : s.finishOk.cmd = s.cmd := rfl
@[simp] theorem State.finishOk_done (s : State) : s.finishOk.done = true := rfl
@[simp] theorem State.finishOk_err (s : State) : s.finishOk.err = false := rfl
@[simp] theorem State.finishOk_presence (s : State) : s.finishOk.presence = s.hid.presence.getD s.presence := rfl
@[simp] theorem State.finishOk_bit (s : State) : s.finishOk.bit = s.bit := rfl
@[simp] theorem State.finishOk_last (s : State) : s.finishOk.last = s.last := rfl
@[simp] theorem State.finishOk_ecode (s : State) : s.finishOk.ecode = 0#4 := rfl
@[simp] theorem State.finishOk_res (s : State) : s.finishOk.res = s.res := rfl
@[simp] theorem State.finishOk_einfo (s : State) : s.finishOk.einfo = 0#8 := rfl
@[simp] theorem State.finishOk_seq (s : State) : s.finishOk.seq = .idle := rfl
@[simp] theorem State.finishOk_hid (s : State) : s.finishOk.hid = Hidden.free s.freeIx := rfl
@[simp] theorem State.finishOk_owDriveLow (s : State) : s.finishOk.owDriveLow = false := rfl
@[simp] theorem State.finishOk_rdata (s : State) : s.finishOk.rdata = s.rdata := rfl
@[simp] theorem State.finishOk_trace (s : State) : s.finishOk.trace = s.trace := rfl
@[simp] theorem State.finishOk_inputs (s : State) : s.finishOk.inputs = s.inputs := rfl
@[simp] theorem State.finishOk_freeIx (s : State) : s.finishOk.freeIx = s.freeIx + 1 := rfl

@[simp] theorem State.raiseError_addr (e : OpError) (s : State) : (s.raiseError e).addr = s.addr := rfl
@[simp] theorem State.raiseError_conflict (e : OpError) (s : State) : (s.raiseError e).conflict = s.conflict := rfl
@[simp] theorem State.raiseError_data (e : OpError) (s : State) : (s.raiseError e).data = s.data := rfl
@[simp] theorem State.raiseError_crc (e : OpError) (s : State) : (s.raiseError e).crc = s.crc := rfl
@[simp] theorem State.raiseError_buf (e : OpError) (s : State) : (s.raiseError e).buf = s.buf := rfl
@[simp] theorem State.raiseError_cmd (e : OpError) (s : State) : (s.raiseError e).cmd = s.cmd := rfl
@[simp] theorem State.raiseError_done (e : OpError) (s : State) : (s.raiseError e).done = true := rfl
@[simp] theorem State.raiseError_err (e : OpError) (s : State) : (s.raiseError e).err = true := rfl
@[simp] theorem State.raiseError_presence (e : OpError) (s : State) : (s.raiseError e).presence = s.hid.presence.getD s.presence := rfl
@[simp] theorem State.raiseError_bit (e : OpError) (s : State) : (s.raiseError e).bit = s.bit := rfl
@[simp] theorem State.raiseError_last (e : OpError) (s : State) : (s.raiseError e).last = s.last := rfl
@[simp] theorem State.raiseError_ecode (e : OpError) (s : State) : (s.raiseError e).ecode = e.code := rfl
@[simp] theorem State.raiseError_res (e : OpError) (s : State) : (s.raiseError e).res = s.res := rfl
@[simp] theorem State.raiseError_einfo (e : OpError) (s : State) : (s.raiseError e).einfo = e.info := rfl
@[simp] theorem State.raiseError_seq (e : OpError) (s : State) : (s.raiseError e).seq = .idle := rfl
@[simp] theorem State.raiseError_hid (e : OpError) (s : State) : (s.raiseError e).hid = Hidden.free s.freeIx := rfl
@[simp] theorem State.raiseError_owDriveLow (e : OpError) (s : State) : (s.raiseError e).owDriveLow = false := rfl
@[simp] theorem State.raiseError_rdata (e : OpError) (s : State) : (s.raiseError e).rdata = s.rdata := rfl
@[simp] theorem State.raiseError_trace (e : OpError) (s : State) : (s.raiseError e).trace = s.trace := rfl
@[simp] theorem State.raiseError_inputs (e : OpError) (s : State) : (s.raiseError e).inputs = s.inputs := rfl
@[simp] theorem State.raiseError_freeIx (e : OpError) (s : State) : (s.raiseError e).freeIx = s.freeIx + 1 := rfl

@[simp] theorem State.readReg_addr (off : BitVec 4) (s : State) : (s.readReg off).addr = s.addr := rfl
@[simp] theorem State.readReg_conflict (off : BitVec 4) (s : State) : (s.readReg off).conflict = s.conflict := rfl
@[simp] theorem State.readReg_data (off : BitVec 4) (s : State) : (s.readReg off).data = s.data := rfl
@[simp] theorem State.readReg_crc (off : BitVec 4) (s : State) : (s.readReg off).crc = s.crc := rfl
@[simp] theorem State.readReg_buf (off : BitVec 4) (s : State) : (s.readReg off).buf = s.buf := rfl
@[simp] theorem State.readReg_cmd (off : BitVec 4) (s : State) : (s.readReg off).cmd = s.cmd := rfl
@[simp] theorem State.readReg_done (off : BitVec 4) (s : State) : (s.readReg off).done = s.done := rfl
@[simp] theorem State.readReg_err (off : BitVec 4) (s : State) : (s.readReg off).err = s.err := rfl
@[simp] theorem State.readReg_presence (off : BitVec 4) (s : State) : (s.readReg off).presence = s.presence := rfl
@[simp] theorem State.readReg_bit (off : BitVec 4) (s : State) : (s.readReg off).bit = s.bit := rfl
@[simp] theorem State.readReg_last (off : BitVec 4) (s : State) : (s.readReg off).last = s.last := rfl
@[simp] theorem State.readReg_ecode (off : BitVec 4) (s : State) : (s.readReg off).ecode = s.ecode := rfl
@[simp] theorem State.readReg_res (off : BitVec 4) (s : State) : (s.readReg off).res = s.res := rfl
@[simp] theorem State.readReg_einfo (off : BitVec 4) (s : State) : (s.readReg off).einfo = s.einfo := rfl
@[simp] theorem State.readReg_seq (off : BitVec 4) (s : State) : (s.readReg off).seq = s.seq := rfl
@[simp] theorem State.readReg_hid (off : BitVec 4) (s : State) : (s.readReg off).hid = s.hid := rfl
@[simp] theorem State.readReg_owDriveLow (off : BitVec 4) (s : State) : (s.readReg off).owDriveLow = s.owDriveLow := rfl
@[simp] theorem State.readReg_rdata (off : BitVec 4) (s : State) : (s.readReg off).rdata = s.hostRead off := rfl
@[simp] theorem State.readReg_trace (off : BitVec 4) (s : State) : (s.readReg off).trace = s.trace := rfl
@[simp] theorem State.readReg_inputs (off : BitVec 4) (s : State) : (s.readReg off).inputs = s.inputs := rfl
@[simp] theorem State.readReg_freeIx (off : BitVec 4) (s : State) : (s.readReg off).freeIx = s.freeIx := rfl

@[simp] theorem State.driveLow_addr (s : State) : s.driveLow.addr = s.addr := rfl
@[simp] theorem State.driveLow_conflict (s : State) : s.driveLow.conflict = s.conflict := rfl
@[simp] theorem State.driveLow_data (s : State) : s.driveLow.data = s.data := rfl
@[simp] theorem State.driveLow_crc (s : State) : s.driveLow.crc = s.crc := rfl
@[simp] theorem State.driveLow_buf (s : State) : s.driveLow.buf = s.buf := rfl
@[simp] theorem State.driveLow_cmd (s : State) : s.driveLow.cmd = s.cmd := rfl
@[simp] theorem State.driveLow_done (s : State) : s.driveLow.done = s.done := rfl
@[simp] theorem State.driveLow_err (s : State) : s.driveLow.err = s.err := rfl
@[simp] theorem State.driveLow_presence (s : State) : s.driveLow.presence = s.presence := rfl
@[simp] theorem State.driveLow_bit (s : State) : s.driveLow.bit = s.bit := rfl
@[simp] theorem State.driveLow_last (s : State) : s.driveLow.last = s.last := rfl
@[simp] theorem State.driveLow_ecode (s : State) : s.driveLow.ecode = s.ecode := rfl
@[simp] theorem State.driveLow_res (s : State) : s.driveLow.res = s.res := rfl
@[simp] theorem State.driveLow_einfo (s : State) : s.driveLow.einfo = s.einfo := rfl
@[simp] theorem State.driveLow_seq (s : State) : s.driveLow.seq = s.seq := rfl
@[simp] theorem State.driveLow_hid (s : State) : s.driveLow.hid = s.hid := rfl
@[simp] theorem State.driveLow_owDriveLow (s : State) : s.driveLow.owDriveLow = true := rfl
@[simp] theorem State.driveLow_rdata (s : State) : s.driveLow.rdata = s.rdata := rfl
@[simp] theorem State.driveLow_trace (s : State) : s.driveLow.trace = .low :: s.trace := rfl
@[simp] theorem State.driveLow_inputs (s : State) : s.driveLow.inputs = s.inputs := rfl
@[simp] theorem State.driveLow_freeIx (s : State) : s.driveLow.freeIx = s.freeIx := rfl

@[simp] theorem State.releaseLine_addr (s : State) : s.releaseLine.addr = s.addr := rfl
@[simp] theorem State.releaseLine_conflict (s : State) : s.releaseLine.conflict = s.conflict := rfl
@[simp] theorem State.releaseLine_data (s : State) : s.releaseLine.data = s.data := rfl
@[simp] theorem State.releaseLine_crc (s : State) : s.releaseLine.crc = s.crc := rfl
@[simp] theorem State.releaseLine_buf (s : State) : s.releaseLine.buf = s.buf := rfl
@[simp] theorem State.releaseLine_cmd (s : State) : s.releaseLine.cmd = s.cmd := rfl
@[simp] theorem State.releaseLine_done (s : State) : s.releaseLine.done = s.done := rfl
@[simp] theorem State.releaseLine_err (s : State) : s.releaseLine.err = s.err := rfl
@[simp] theorem State.releaseLine_presence (s : State) : s.releaseLine.presence = s.presence := rfl
@[simp] theorem State.releaseLine_bit (s : State) : s.releaseLine.bit = s.bit := rfl
@[simp] theorem State.releaseLine_last (s : State) : s.releaseLine.last = s.last := rfl
@[simp] theorem State.releaseLine_ecode (s : State) : s.releaseLine.ecode = s.ecode := rfl
@[simp] theorem State.releaseLine_res (s : State) : s.releaseLine.res = s.res := rfl
@[simp] theorem State.releaseLine_einfo (s : State) : s.releaseLine.einfo = s.einfo := rfl
@[simp] theorem State.releaseLine_seq (s : State) : s.releaseLine.seq = s.seq := rfl
@[simp] theorem State.releaseLine_hid (s : State) : s.releaseLine.hid = s.hid := rfl
@[simp] theorem State.releaseLine_owDriveLow (s : State) : s.releaseLine.owDriveLow = false := rfl
@[simp] theorem State.releaseLine_rdata (s : State) : s.releaseLine.rdata = s.rdata := rfl
@[simp] theorem State.releaseLine_trace (s : State) : s.releaseLine.trace = .release :: s.trace := rfl
@[simp] theorem State.releaseLine_inputs (s : State) : s.releaseLine.inputs = s.inputs := rfl
@[simp] theorem State.releaseLine_freeIx (s : State) : s.releaseLine.freeIx = s.freeIx := rfl

@[simp] theorem State.goto_addr (q : Seq) (s : State) : (s.goto q).addr = s.addr := rfl
@[simp] theorem State.goto_conflict (q : Seq) (s : State) : (s.goto q).conflict = s.conflict := rfl
@[simp] theorem State.goto_data (q : Seq) (s : State) : (s.goto q).data = s.data := rfl
@[simp] theorem State.goto_crc (q : Seq) (s : State) : (s.goto q).crc = s.crc := rfl
@[simp] theorem State.goto_buf (q : Seq) (s : State) : (s.goto q).buf = s.buf := rfl
@[simp] theorem State.goto_cmd (q : Seq) (s : State) : (s.goto q).cmd = s.cmd := rfl
@[simp] theorem State.goto_done (q : Seq) (s : State) : (s.goto q).done = s.done := rfl
@[simp] theorem State.goto_err (q : Seq) (s : State) : (s.goto q).err = s.err := rfl
@[simp] theorem State.goto_presence (q : Seq) (s : State) : (s.goto q).presence = s.presence := rfl
@[simp] theorem State.goto_bit (q : Seq) (s : State) : (s.goto q).bit = s.bit := rfl
@[simp] theorem State.goto_last (q : Seq) (s : State) : (s.goto q).last = s.last := rfl
@[simp] theorem State.goto_ecode (q : Seq) (s : State) : (s.goto q).ecode = s.ecode := rfl
@[simp] theorem State.goto_res (q : Seq) (s : State) : (s.goto q).res = s.res := rfl
@[simp] theorem State.goto_einfo (q : Seq) (s : State) : (s.goto q).einfo = s.einfo := rfl
@[simp] theorem State.goto_seq (q : Seq) (s : State) : (s.goto q).seq = q := rfl
@[simp] theorem State.goto_hid (q : Seq) (s : State) : (s.goto q).hid = s.hid := rfl
@[simp] theorem State.goto_owDriveLow (q : Seq) (s : State) : (s.goto q).owDriveLow = s.owDriveLow := rfl
@[simp] theorem State.goto_rdata (q : Seq) (s : State) : (s.goto q).rdata = s.rdata := rfl
@[simp] theorem State.goto_trace (q : Seq) (s : State) : (s.goto q).trace = s.trace := rfl
@[simp] theorem State.goto_inputs (q : Seq) (s : State) : (s.goto q).inputs = s.inputs := rfl
@[simp] theorem State.goto_freeIx (q : Seq) (s : State) : (s.goto q).freeIx = s.freeIx := rfl

@[simp] theorem State.startDelay_addr (t : Nat) (s : State) : (s.startDelay t).addr = s.addr := rfl
@[simp] theorem State.startDelay_conflict (t : Nat) (s : State) : (s.startDelay t).conflict = s.conflict := rfl
@[simp] theorem State.startDelay_data (t : Nat) (s : State) : (s.startDelay t).data = s.data := rfl
@[simp] theorem State.startDelay_crc (t : Nat) (s : State) : (s.startDelay t).crc = s.crc := rfl
@[simp] theorem State.startDelay_buf (t : Nat) (s : State) : (s.startDelay t).buf = s.buf := rfl
@[simp] theorem State.startDelay_cmd (t : Nat) (s : State) : (s.startDelay t).cmd = s.cmd := rfl
@[simp] theorem State.startDelay_done (t : Nat) (s : State) : (s.startDelay t).done = s.done := rfl
@[simp] theorem State.startDelay_err (t : Nat) (s : State) : (s.startDelay t).err = s.err := rfl
@[simp] theorem State.startDelay_presence (t : Nat) (s : State) : (s.startDelay t).presence = s.presence := rfl
@[simp] theorem State.startDelay_bit (t : Nat) (s : State) : (s.startDelay t).bit = s.bit := rfl
@[simp] theorem State.startDelay_last (t : Nat) (s : State) : (s.startDelay t).last = s.last := rfl
@[simp] theorem State.startDelay_ecode (t : Nat) (s : State) : (s.startDelay t).ecode = s.ecode := rfl
@[simp] theorem State.startDelay_res (t : Nat) (s : State) : (s.startDelay t).res = s.res := rfl
@[simp] theorem State.startDelay_einfo (t : Nat) (s : State) : (s.startDelay t).einfo = s.einfo := rfl
@[simp] theorem State.startDelay_seq (t : Nat) (s : State) : (s.startDelay t).seq = s.seq := rfl
@[simp] theorem State.startDelay_hid (t : Nat) (s : State) : (s.startDelay t).hid = { s.hid with tmr := t } := rfl
@[simp] theorem State.startDelay_owDriveLow (t : Nat) (s : State) : (s.startDelay t).owDriveLow = s.owDriveLow := rfl
@[simp] theorem State.startDelay_rdata (t : Nat) (s : State) : (s.startDelay t).rdata = s.rdata := rfl
@[simp] theorem State.startDelay_trace (t : Nat) (s : State) : (s.startDelay t).trace = s.trace := rfl
@[simp] theorem State.startDelay_inputs (t : Nat) (s : State) : (s.startDelay t).inputs = s.inputs := rfl
@[simp] theorem State.startDelay_freeIx (t : Nat) (s : State) : (s.startDelay t).freeIx = s.freeIx := rfl

@[simp] theorem State.elapse_addr (s : State) : s.elapse.addr = s.addr := rfl
@[simp] theorem State.elapse_conflict (s : State) : s.elapse.conflict = s.conflict := rfl
@[simp] theorem State.elapse_data (s : State) : s.elapse.data = s.data := rfl
@[simp] theorem State.elapse_crc (s : State) : s.elapse.crc = s.crc := rfl
@[simp] theorem State.elapse_buf (s : State) : s.elapse.buf = s.buf := rfl
@[simp] theorem State.elapse_cmd (s : State) : s.elapse.cmd = s.cmd := rfl
@[simp] theorem State.elapse_done (s : State) : s.elapse.done = s.done := rfl
@[simp] theorem State.elapse_err (s : State) : s.elapse.err = s.err := rfl
@[simp] theorem State.elapse_presence (s : State) : s.elapse.presence = s.presence := rfl
@[simp] theorem State.elapse_bit (s : State) : s.elapse.bit = s.bit := rfl
@[simp] theorem State.elapse_last (s : State) : s.elapse.last = s.last := rfl
@[simp] theorem State.elapse_ecode (s : State) : s.elapse.ecode = s.ecode := rfl
@[simp] theorem State.elapse_res (s : State) : s.elapse.res = s.res := rfl
@[simp] theorem State.elapse_einfo (s : State) : s.elapse.einfo = s.einfo := rfl
@[simp] theorem State.elapse_seq (s : State) : s.elapse.seq = s.seq := rfl
@[simp] theorem State.elapse_hid (s : State) : s.elapse.hid = { s.hid with tmr := 0 } := rfl
@[simp] theorem State.elapse_owDriveLow (s : State) : s.elapse.owDriveLow = s.owDriveLow := rfl
@[simp] theorem State.elapse_rdata (s : State) : s.elapse.rdata = s.rdata := rfl
@[simp] theorem State.elapse_trace (s : State) : s.elapse.trace = .delay s.hid.tmr :: s.trace := rfl
@[simp] theorem State.elapse_inputs (s : State) : s.elapse.inputs = s.inputs := rfl
@[simp] theorem State.elapse_freeIx (s : State) : s.elapse.freeIx = s.freeIx := rfl

@[simp] theorem State.abort_addr (e : OpError) (s : State) : (s.abort e).addr = s.addr := rfl
@[simp] theorem State.abort_conflict (e : OpError) (s : State) : (s.abort e).conflict = s.conflict := rfl
@[simp] theorem State.abort_data (e : OpError) (s : State) : (s.abort e).data = s.data := rfl
@[simp] theorem State.abort_crc (e : OpError) (s : State) : (s.abort e).crc = s.crc := rfl
@[simp] theorem State.abort_buf (e : OpError) (s : State) : (s.abort e).buf = s.buf := rfl
@[simp] theorem State.abort_cmd (e : OpError) (s : State) : (s.abort e).cmd = s.cmd := rfl
@[simp] theorem State.abort_done (e : OpError) (s : State) : (s.abort e).done = s.done := rfl
@[simp] theorem State.abort_err (e : OpError) (s : State) : (s.abort e).err = s.err := rfl
@[simp] theorem State.abort_presence (e : OpError) (s : State) : (s.abort e).presence = s.presence := rfl
@[simp] theorem State.abort_bit (e : OpError) (s : State) : (s.abort e).bit = s.bit := rfl
@[simp] theorem State.abort_last (e : OpError) (s : State) : (s.abort e).last = s.last := rfl
@[simp] theorem State.abort_ecode (e : OpError) (s : State) : (s.abort e).ecode = s.ecode := rfl
@[simp] theorem State.abort_res (e : OpError) (s : State) : (s.abort e).res = s.res := rfl
@[simp] theorem State.abort_einfo (e : OpError) (s : State) : (s.abort e).einfo = s.einfo := rfl
@[simp] theorem State.abort_seq (e : OpError) (s : State) : (s.abort e).seq = .complete (some e) := rfl
@[simp] theorem State.abort_hid (e : OpError) (s : State) : (s.abort e).hid = { s.hid with tmr := 0 } := rfl
@[simp] theorem State.abort_owDriveLow (e : OpError) (s : State) : (s.abort e).owDriveLow = false := rfl
@[simp] theorem State.abort_rdata (e : OpError) (s : State) : (s.abort e).rdata = s.rdata := rfl
@[simp] theorem State.abort_trace (e : OpError) (s : State) : (s.abort e).trace = s.trace := rfl
@[simp] theorem State.abort_inputs (e : OpError) (s : State) : (s.abort e).inputs = s.inputs := rfl
@[simp] theorem State.abort_freeIx (e : OpError) (s : State) : (s.abort e).freeIx = s.freeIx := rfl

@[simp] theorem State.afterRst_addr (s : State) : s.afterRst.addr = State.reset.addr := rfl
@[simp] theorem State.afterRst_conflict (s : State) : s.afterRst.conflict = State.reset.conflict := rfl
@[simp] theorem State.afterRst_data (s : State) : s.afterRst.data = State.reset.data := rfl
@[simp] theorem State.afterRst_crc (s : State) : s.afterRst.crc = State.reset.crc := rfl
@[simp] theorem State.afterRst_buf (s : State) : s.afterRst.buf = State.reset.buf := rfl
@[simp] theorem State.afterRst_cmd (s : State) : s.afterRst.cmd = State.reset.cmd := rfl
@[simp] theorem State.afterRst_done (s : State) : s.afterRst.done = State.reset.done := rfl
@[simp] theorem State.afterRst_err (s : State) : s.afterRst.err = State.reset.err := rfl
@[simp] theorem State.afterRst_presence (s : State) : s.afterRst.presence = State.reset.presence := rfl
@[simp] theorem State.afterRst_bit (s : State) : s.afterRst.bit = State.reset.bit := rfl
@[simp] theorem State.afterRst_last (s : State) : s.afterRst.last = State.reset.last := rfl
@[simp] theorem State.afterRst_ecode (s : State) : s.afterRst.ecode = State.reset.ecode := rfl
@[simp] theorem State.afterRst_res (s : State) : s.afterRst.res = State.reset.res := rfl
@[simp] theorem State.afterRst_einfo (s : State) : s.afterRst.einfo = State.reset.einfo := rfl
@[simp] theorem State.afterRst_seq (s : State) : s.afterRst.seq = State.reset.seq := rfl
@[simp] theorem State.afterRst_hid (s : State) : s.afterRst.hid = State.reset.hid := rfl
@[simp] theorem State.afterRst_owDriveLow (s : State) : s.afterRst.owDriveLow = State.reset.owDriveLow := rfl
@[simp] theorem State.afterRst_rdata (s : State) : s.afterRst.rdata = State.reset.rdata := rfl
@[simp] theorem State.afterRst_trace (s : State) : s.afterRst.trace = s.trace := rfl
@[simp] theorem State.afterRst_inputs (s : State) : s.afterRst.inputs = s.inputs := rfl
@[simp] theorem State.afterRst_freeIx (s : State) : s.afterRst.freeIx = s.freeIx := rfl

/-! ## `emitPart`: only the trace can change -/

@[simp] theorem State.emitPart_zero (s : State) : s.emitPart 0 = s := rfl
theorem State.emitPart_pos {t : Nat} (h : t ≠ 0) (s : State) : s.emitPart t = s.emit (.delay t) := if_neg h
@[simp] theorem State.emitPart_addr (t : Nat) (s : State) :
    (s.emitPart t).addr = s.addr := by unfold State.emitPart; split <;> rfl
@[simp] theorem State.emitPart_conflict (t : Nat) (s : State) :
    (s.emitPart t).conflict = s.conflict := by unfold State.emitPart; split <;> rfl
@[simp] theorem State.emitPart_data (t : Nat) (s : State) :
    (s.emitPart t).data = s.data := by unfold State.emitPart; split <;> rfl
@[simp] theorem State.emitPart_crc (t : Nat) (s : State) :
    (s.emitPart t).crc = s.crc := by unfold State.emitPart; split <;> rfl
@[simp] theorem State.emitPart_buf (t : Nat) (s : State) :
    (s.emitPart t).buf = s.buf := by unfold State.emitPart; split <;> rfl
@[simp] theorem State.emitPart_cmd (t : Nat) (s : State) :
    (s.emitPart t).cmd = s.cmd := by unfold State.emitPart; split <;> rfl
@[simp] theorem State.emitPart_done (t : Nat) (s : State) :
    (s.emitPart t).done = s.done := by unfold State.emitPart; split <;> rfl
@[simp] theorem State.emitPart_err (t : Nat) (s : State) :
    (s.emitPart t).err = s.err := by unfold State.emitPart; split <;> rfl
@[simp] theorem State.emitPart_presence (t : Nat) (s : State) :
    (s.emitPart t).presence = s.presence := by unfold State.emitPart; split <;> rfl
@[simp] theorem State.emitPart_bit (t : Nat) (s : State) :
    (s.emitPart t).bit = s.bit := by unfold State.emitPart; split <;> rfl
@[simp] theorem State.emitPart_last (t : Nat) (s : State) :
    (s.emitPart t).last = s.last := by unfold State.emitPart; split <;> rfl
@[simp] theorem State.emitPart_ecode (t : Nat) (s : State) :
    (s.emitPart t).ecode = s.ecode := by unfold State.emitPart; split <;> rfl
@[simp] theorem State.emitPart_res (t : Nat) (s : State) :
    (s.emitPart t).res = s.res := by unfold State.emitPart; split <;> rfl
@[simp] theorem State.emitPart_einfo (t : Nat) (s : State) :
    (s.emitPart t).einfo = s.einfo := by unfold State.emitPart; split <;> rfl
@[simp] theorem State.emitPart_seq (t : Nat) (s : State) :
    (s.emitPart t).seq = s.seq := by unfold State.emitPart; split <;> rfl
@[simp] theorem State.emitPart_hid (t : Nat) (s : State) :
    (s.emitPart t).hid = s.hid := by unfold State.emitPart; split <;> rfl
@[simp] theorem State.emitPart_owDriveLow (t : Nat) (s : State) :
    (s.emitPart t).owDriveLow = s.owDriveLow := by unfold State.emitPart; split <;> rfl
@[simp] theorem State.emitPart_rdata (t : Nat) (s : State) :
    (s.emitPart t).rdata = s.rdata := by unfold State.emitPart; split <;> rfl
@[simp] theorem State.emitPart_trace (t : Nat) (s : State) :
    (s.emitPart t).trace = if t = 0 then s.trace else .delay t :: s.trace := by unfold State.emitPart; split <;> rfl
@[simp] theorem State.emitPart_inputs (t : Nat) (s : State) :
    (s.emitPart t).inputs = s.inputs := by unfold State.emitPart; split <;> rfl
@[simp] theorem State.emitPart_freeIx (t : Nat) (s : State) :
    (s.emitPart t).freeIx = s.freeIx := by unfold State.emitPart; split <;> rfl

/-! ## `abandon` -/

@[simp] theorem State.abandon_addr (left t : Nat) (s : State) : (s.abandon left t).addr = State.reset.addr := rfl
@[simp] theorem State.abandon_conflict (left t : Nat) (s : State) : (s.abandon left t).conflict = State.reset.conflict := rfl
@[simp] theorem State.abandon_data (left t : Nat) (s : State) : (s.abandon left t).data = State.reset.data := rfl
@[simp] theorem State.abandon_crc (left t : Nat) (s : State) : (s.abandon left t).crc = State.reset.crc := rfl
@[simp] theorem State.abandon_buf (left t : Nat) (s : State) : (s.abandon left t).buf = State.reset.buf := rfl
@[simp] theorem State.abandon_cmd (left t : Nat) (s : State) : (s.abandon left t).cmd = State.reset.cmd := rfl
@[simp] theorem State.abandon_done (left t : Nat) (s : State) : (s.abandon left t).done = State.reset.done := rfl
@[simp] theorem State.abandon_err (left t : Nat) (s : State) : (s.abandon left t).err = State.reset.err := rfl
@[simp] theorem State.abandon_presence (left t : Nat) (s : State) : (s.abandon left t).presence = State.reset.presence := rfl
@[simp] theorem State.abandon_bit (left t : Nat) (s : State) : (s.abandon left t).bit = State.reset.bit := rfl
@[simp] theorem State.abandon_last (left t : Nat) (s : State) : (s.abandon left t).last = State.reset.last := rfl
@[simp] theorem State.abandon_ecode (left t : Nat) (s : State) : (s.abandon left t).ecode = State.reset.ecode := rfl
@[simp] theorem State.abandon_res (left t : Nat) (s : State) : (s.abandon left t).res = State.reset.res := rfl
@[simp] theorem State.abandon_einfo (left t : Nat) (s : State) : (s.abandon left t).einfo = State.reset.einfo := rfl
@[simp] theorem State.abandon_seq (left t : Nat) (s : State) : (s.abandon left t).seq = State.reset.seq := rfl
@[simp] theorem State.abandon_hid (left t : Nat) (s : State) : (s.abandon left t).hid = State.reset.hid := rfl
@[simp] theorem State.abandon_owDriveLow (left t : Nat) (s : State) : (s.abandon left t).owDriveLow = State.reset.owDriveLow := rfl
@[simp] theorem State.abandon_rdata (left t : Nat) (s : State) : (s.abandon left t).rdata = State.reset.rdata := rfl
@[simp] theorem State.abandon_trace (left t : Nat) (s : State) : (s.abandon left t).trace
    = if min t left = 0 then s.trace else .delay (min t left) :: s.trace := State.emitPart_trace _ s
@[simp] theorem State.abandon_inputs (left t : Nat) (s : State) : (s.abandon left t).inputs = s.inputs :=
  State.emitPart_inputs _ s
@[simp] theorem State.abandon_freeIx (left t : Nat) (s : State) : (s.abandon left t).freeIx = s.freeIx :=
  State.emitPart_freeIx _ s

end Sys2Proof.Machine
end

