-- ==== Sys2Proof/Laws/Ops.lean ====
section
/-! SUPPORT. What each shared operation does, said once. First how procedures compose; then, for answers of the line that
are clean (State.quiet), the exact value, trace and state each procedure of the timing primitives and the codec returns. -/

namespace Sys2Proof.Machine

/-! ## Composition of procedures -/

theorem op_bind_ok {α β : Type} {x : Op α} {f : α → Op β} {s t : State} {a : α} (h : x s = .ok a t) :
    (x >>= f) s = f a t := by
  simp [bind, EStateM.bind, h]

theorem op_bind_error {α β : Type} {x : Op α} {f : α → Op β} {s t : State} {e : Stop} (h : x s = .error e t) :
    (x >>= f) s = .error e t := by
  simp [bind, EStateM.bind, h]

@[simp] theorem op_pure {α : Type} (a : α) (s : State) : (pure a : Op α) s = .ok a s := rfl

@[simp] theorem op_modify (f : State → State) (s : State) : (modify f : Op Unit) s = .ok () (f s) := rfl

@[simp] theorem op_get (s : State) : (get : Op State) s = .ok s s := rfl

@[simp] theorem op_raise {α : Type} (e : OpError) (s : State) : (raise e : Op α) s = .error (.raised e) s := rfl

/-! ## The state after some answers -/

/-- The state after `n` answers were used and the events `tr` happened, the line released. -/
def State.ran (s : State) (n : Nat) (tr : List PinEvent) : State :=
  { s with
      inputs := s.inputs.drop n, trace := tr.reverse ++ s.trace,
      owDriveLow := if n = 0 then s.owDriveLow else false }

@[simp] theorem ran_zero (s : State) : s.ran 0 [] = s := rfl

theorem ran_ran (s : State) (n k : Nat) (tr tr' : List PinEvent) :
    (s.ran n tr).ran k tr' = s.ran (n + k) (tr ++ tr') := by
  simp only [State.ran, List.drop_drop, List.reverse_append, List.append_assoc]
  by_cases hk : k = 0 <;> by_cases hn : n = 0 <;> simp [hk, hn]

theorem level_ran (s : State) (n k : Nat) (tr : List PinEvent) : (s.ran n tr).level k = s.level (n + k) := by
  simp [State.level, State.ran, List.getElem?_drop]

theorem quiet_left {s : State} {n k : Nat} (h : s.quiet (n + k)) : s.quiet n := by
  obtain ⟨hlen, hall, hend⟩ := h
  refine ⟨by omega, fun x hx => hall x ?_, fun x hx => ?_⟩
  · have hx' : x ∈ List.take n (List.take (n + k) s.inputs) := by
      rwa [List.take_take, Nat.min_eq_left (Nat.le_add_right n k)]
    exact List.mem_of_mem_take hx'
  · by_cases hk : k = 0
    · subst hk; exact hend x hx
    · have hx' : s.inputs[n]? = some x := hx
      have hmem : x ∈ s.inputs.take (n + k) := by
        rw [List.mem_iff_getElem?]
        exact ⟨n, by rw [List.getElem?_take]; simp [hx']; omega⟩
      have hc := hall x hmem
      cases x <;> simp_all [Input.clean, Input.isDuring]

theorem quiet_ran {s : State} {n k : Nat} (tr : List PinEvent) (h : s.quiet (n + k)) : (s.ran n tr).quiet k := by
  obtain ⟨hlen, hall, hend⟩ := h
  refine ⟨by simp [State.ran]; omega, fun x hx => hall x ?_, fun x hx => hend x ?_⟩
  · have hx' : x ∈ (s.inputs.drop n).take k := hx
    rw [List.take_drop] at hx'
    exact List.mem_of_mem_drop hx'
  · simpa [State.ran, List.getElem?_drop] using hx

/-- Quiet for at least one answer: the first input is a clean answer. -/
theorem quiet_succ {s : State} {n : Nat} (h : s.quiet (n + 1)) :
    ∃ p rest, s.inputs = .pins p :: rest ∧ p.pinFault = false := by
  obtain ⟨hlen, hall, -⟩ := h
  match hi : s.inputs with
  | [] => simp [hi] at hlen
  | x :: rest =>
    have hx := hall x (by simp [hi])
    cases x with
    | pins p => exact ⟨p, rest, rfl, by simpa [Input.clean] using hx⟩
    | host _ => simp [Input.clean] at hx
    | during _ => simp [Input.clean] at hx

/-! ## Pin events and delays -/

/-- Where no host event comes now, there is nothing to take in. -/
theorem settle_quiet {s : State} {n : Nat} (left : Nat) (h : s.quiet n) : settle left s = .ok () s := by
  have h0 : s.quiet 0 := quiet_left (n := 0) (k := n) (by simpa using h)
  obtain ⟨-, -, hend⟩ := h0
  unfold settle
  match hi : s.inputs with
  | [] => rfl
  | .pins p :: rest => rfl
  | .host e :: rest => rfl
  | .during e :: rest => simp [hi, Input.isDuring] at hend

theorem pinEvent_quiet {s : State} {n : Nat} (act : Bool → State → State) (h : s.quiet (n + 1)) :
    pinEvent act s = .ok (s.level 0) (act (s.level 0) { s with inputs := s.inputs.drop 1 }) := by
  obtain ⟨p, rest, hi, hp⟩ := quiet_succ h
  simp [pinEvent, settle_quiet 0 h, State.look, hi, hp, State.level]

/-- R126: a fault at the next look ends the procedure, whatever the event was. -/
theorem pinEvent_fault {s : State} {p : Pins} {rest : List Input} (act : Bool → State → State)
    (hi : s.inputs = .pins p :: rest) (hp : p.pinFault = true) :
    pinEvent act s = .error (.raised (.pinFault p.pinErr)) ({ s with inputs := rest }.emit (.faulted p.pinErr)) := by
  have hs : settle 0 s = .ok () s := by simp [settle, hi, settleFrom]
  simp [pinEvent, hs, State.look, hi, hp]

theorem delay_quiet {s : State} {n : Nat} (t : Nat) (h : s.quiet n) : delay t s = .ok () (s.emit (.delay t)) := by
  rw [delay, op_bind_ok (settle_quiet t h), op_modify]

theorem quiet_of_inputs {s t : State} {n : Nat} (hi : t.inputs = s.inputs) (h : s.quiet n) : t.quiet n := by
  simpa [State.quiet, hi] using h

theorem quiet_drop {s t : State} {n k : Nat} (hi : t.inputs = s.inputs.drop n) (h : s.quiet (n + k)) : t.quiet k :=
  quiet_of_inputs (s := s.ran n []) (by simp [hi, State.ran]) (quiet_ran [] h)

theorem pinLow_quiet {s : State} {n : Nat} (h : s.quiet (n + 1)) :
    pinLow s = .ok () ({ s with inputs := s.inputs.drop 1 }.driveLow) := by
  rw [pinLow, op_bind_ok (pinEvent_quiet _ h)]; rfl

theorem pinRelease_quiet {s : State} {n : Nat} (h : s.quiet (n + 1)) :
    pinRelease s = .ok () ({ s with inputs := s.inputs.drop 1 }.releaseLine) := by
  rw [pinRelease, op_bind_ok (pinEvent_quiet _ h)]; rfl

theorem pinSample_quiet {s : State} {n : Nat} (h : s.quiet (n + 1)) :
    pinSample s = .ok (s.level 0) ({ s with inputs := s.inputs.drop 1 }.emit (.sample (s.level 0))) :=
  pinEvent_quiet _ h

/-! ## The slots -/

/-- R124: a read slot on a quiet line. -/
theorem readBit_quiet (P : Profile) {s : State} (h : s.quiet 3) :
    readBit P s = .ok (s.readAt 0) (s.ran 3 (readSlotTrace P (s.readAt 0))) := by
  unfold readBit
  rw [op_bind_ok (pinLow_quiet (n := 2) h),
    op_bind_ok (delay_quiet (n := 2) P.A (quiet_drop (n := 1) (by simp) h)),
    op_bind_ok (pinRelease_quiet (n := 1) (quiet_drop (n := 1) (by simp) h)),
    op_bind_ok (delay_quiet (n := 1) P.E (quiet_drop (n := 2) (by simp) h)),
    op_bind_ok (pinSample_quiet (n := 0) (quiet_drop (n := 2) (by simp) h)),
    op_bind_ok (delay_quiet (n := 0) P.F (quiet_drop (n := 3) (by simp) h))]
  simp [State.emit, State.driveLow, State.releaseLine, State.level, State.readAt, State.ran, readSlotTrace]

/-- R125: a write slot on a quiet line. -/
theorem writeBit_quiet (P : Profile) (b : Bool) {s : State} (h : s.quiet 2) :
    writeBit P b s = .ok () (s.ran 2 (writeSlotTrace P b)) := by
  unfold writeBit
  rw [op_bind_ok (pinLow_quiet (n := 1) h),
    op_bind_ok (delay_quiet (n := 1) _ (quiet_drop (n := 1) (by simp) h)),
    op_bind_ok (pinRelease_quiet (n := 0) (quiet_drop (n := 1) (by simp) h)),
    delay_quiet (n := 0) _ (quiet_drop (n := 2) (by simp) h)]
  cases b <;>
    simp [State.emit, State.driveLow, State.releaseLine, State.ran, writeSlotTrace, writeLow, writeHigh]

theorem writeBits_quiet (l : List Bool) {s : State} (h : s.quiet (2 * l.length)) :
    writeBits l s = .ok () (s.ran (2 * l.length) (l.flatMap (writeSlotTrace Config.profile))) := by
  induction l generalizing s with
  | nil => rfl
  | cons b r ih =>
    have h' : s.quiet (2 + 2 * r.length) := by
      simpa [Nat.mul_add, Nat.add_comm] using h
    rw [writeBits, op_bind_ok (writeBit_quiet _ b (quiet_left h')), ih (quiet_ran _ h'), ran_ran]
    simp [Nat.mul_add, Nat.add_comm]

/-- R141: a byte written on a quiet line. -/
theorem writeByte_quiet (v : Byte) {s : State} (h : s.quiet 16) :
    writeByte v s = .ok () (s.ran 16 (writeByteTrace v)) :=
  writeBits_quiet (bitsOf v) h

/-- R143: bytes written on a quiet line. -/
theorem busWrite_quiet (l : List Byte) {s : State} (h : s.quiet (16 * l.length)) :
    busWrite l s = .ok () (s.ran (16 * l.length) (writeBytesTrace l)) := by
  induction l generalizing s with
  | nil => rfl
  | cons v r ih =>
    have h' : s.quiet (16 + 16 * r.length) := by
      simpa [Nat.mul_add, Nat.add_comm] using h
    rw [busWrite, op_bind_ok (writeByte_quiet v (quiet_left h')), ih (quiet_ran _ h'), ran_ran]
    simp [Nat.mul_add, Nat.add_comm, writeBytesTrace]

/-- The bits the next `n` read slots sample, in time order. -/
def State.bitsAt (s : State) : Nat → Nat → List Bool
  | _, 0 => []
  | k, n + 1 => s.readAt k :: s.bitsAt (k + 3) n

theorem bitsAt_ran (s : State) (j k n : Nat) (tr : List PinEvent) :
    (s.ran j tr).bitsAt k n = s.bitsAt (j + k) n := by
  induction n generalizing k with
  | zero => rfl
  | succ n ih => simp [State.bitsAt, State.readAt, level_ran, ih, Nat.add_assoc]

/-- Bits shifted into an accumulator one after the other. -/
def shiftAll (l : List Bool) (acc : Byte) : Byte := l.foldl (fun a b => shiftIn b a) acc

theorem readBits_quiet (n : Nat) (acc : Byte) {s : State} (h : s.quiet (3 * n)) :
    readBits n acc s = .ok (shiftAll (s.bitsAt 0 n) acc)
      (s.ran (3 * n) ((s.bitsAt 0 n).flatMap (readSlotTrace Config.profile))) := by
  induction n generalizing s acc with
  | zero => rfl
  | succ n ih =>
    have h' : s.quiet (3 + 3 * n) := by simpa [Nat.mul_add, Nat.add_comm] using h
    rw [readBits, op_bind_ok (readBit_quiet _ (quiet_left h')), ih _ (quiet_ran _ h'), ran_ran, bitsAt_ran]
    simp [State.bitsAt, shiftAll, Nat.mul_add, Nat.add_comm]

theorem getLsbD_shiftIn (b : Bool) (acc : Byte) (i : Nat) :
    (shiftIn b acc).getLsbD i = if i < 7 then acc.getLsbD (i + 1) else (decide (i = 7) && b) := by
  rw [shiftIn, BitVec.getLsbD_append, BitVec.getLsbD_extractLsb', BitVec.getLsbD_ofBool]
  by_cases h : i < 7
  · simp [h, Nat.add_comm]
  · by_cases h7 : i = 7
    · simp [h7]
    · have : ¬ (i - 7 = 0) := by omega
      simp [h, h7, this]

theorem getLsbD_byteOfBits (b : Nat → Bool) (i : Nat) (h : i < 8) : (byteOfBits b).getLsbD i = b i := by
  have : i = 0 ∨ i = 1 ∨ i = 2 ∨ i = 3 ∨ i = 4 ∨ i = 5 ∨ i = 6 ∨ i = 7 := by omega
  rcases this with rfl | rfl | rfl | rfl | rfl | rfl | rfl | rfl <;>
    simp only [byteOfBits, BitVec.getLsbD_append, BitVec.getLsbD_ofBool] <;> simp

/-- R140: eight shifts leave bit `j` of the result the bit of slot `j`. -/
theorem shiftAll_eight (b : Nat → Bool) (acc : Byte) :
    shiftAll [b 0, b 1, b 2, b 3, b 4, b 5, b 6, b 7] acc = byteOfBits b := by
  apply BitVec.eq_of_getLsbD_eq
  intro i hi
  rw [getLsbD_byteOfBits b i hi]
  have : i = 0 ∨ i = 1 ∨ i = 2 ∨ i = 3 ∨ i = 4 ∨ i = 5 ∨ i = 6 ∨ i = 7 := by omega
  rcases this with rfl | rfl | rfl | rfl | rfl | rfl | rfl | rfl <;> simp only [shiftAll, List.foldl, getLsbD_shiftIn] <;>
    simp

theorem bitsOf_byteOfBits (b : Nat → Bool) : bitsOf (byteOfBits b) = [b 0, b 1, b 2, b 3, b 4, b 5, b 6, b 7] := by
  have h := getLsbD_byteOfBits b
  simp only [bitsOf, List.range, List.range.loop, List.map_cons, List.map_nil]
  rw [h 0 (by omega), h 1 (by omega), h 2 (by omega), h 3 (by omega), h 4 (by omega), h 5 (by omega), h 6 (by omega),
    h 7 (by omega)]

/-- R140: a byte read on a quiet line. -/
theorem readByte_quiet {s : State} (h : s.quiet 24) :
    readByte s = .ok (s.byteAt 0) (s.ran 24 (readByteTrace (s.byteAt 0))) := by
  have hb : s.bitsAt 0 8 = [s.readAt 0, s.readAt 3, s.readAt 6, s.readAt 9, s.readAt 12, s.readAt 15, s.readAt 18,
    s.readAt 21] := rfl
  have hv := shiftAll_eight (fun j => s.readAt (0 + 3 * j)) 0#8
  have ht := bitsOf_byteOfBits (fun j => s.readAt (0 + 3 * j))
  simp only [Nat.zero_add, Nat.reduceMul, Nat.mul_zero, Nat.mul_one] at hv ht
  rw [readByte, readBits_quiet 8 0#8 h, hb, hv]
  simp only [readByteTrace, State.byteAt, Nat.zero_add, ht, Nat.reduceMul]

theorem byteAt_ran (s : State) (j k : Nat) (tr : List PinEvent) : (s.ran j tr).byteAt k = s.byteAt (j + k) := by
  simp [State.byteAt, State.readAt, level_ran, Nat.add_assoc]

theorem bytesAt_succ (s : State) (k n : Nat) : s.bytesAt k (n + 1) = s.byteAt k :: s.bytesAt (k + 24) n := by
  simp only [State.bytesAt, List.range_succ_eq_map, List.map_cons, List.map_map, Nat.mul_zero, Nat.add_zero,
    List.cons.injEq, true_and]
  apply List.map_congr_left
  intro i _
  simp [Nat.mul_add, Nat.add_assoc, Nat.add_comm]

theorem bytesAt_ran (s : State) (j k n : Nat) (tr : List PinEvent) :
    (s.ran j tr).bytesAt k n = s.bytesAt (j + k) n := by
  simp [State.bytesAt, byteAt_ran, Nat.add_assoc]

@[simp] theorem bytesAt_length (s : State) (k n : Nat) : (s.bytesAt k n).length = n := by
  simp [State.bytesAt]

/-- R142: bytes read on a quiet line. -/
theorem busRead_quiet (n : Nat) {s : State} (h : s.quiet (24 * n)) :
    busRead n s = .ok (s.bytesAt 0 n) (s.ran (24 * n) (readBytesTrace (s.bytesAt 0 n))) := by
  induction n generalizing s with
  | zero => rfl
  | succ n ih =>
    have h' : s.quiet (24 + 24 * n) := by simpa [Nat.mul_add, Nat.add_comm] using h
    rw [busRead, op_bind_ok (readByte_quiet (quiet_left h')), op_bind_ok (ih (quiet_ran _ h')), op_pure, ran_ran,
      bytesAt_ran, bytesAt_succ]
    simp [Nat.mul_add, Nat.add_comm, readBytesTrace]

/-! ## The initialization sequence -/

/-- R123: the line rises after `m` low samples. -/
theorem awaitFrom_rises (m : Nat) {s : State} (h : s.quiet (m + 1)) (hr : s.risesAfter m) :
    awaitFrom s.inputs s
      = .ok () ({ s with inputs := s.inputs.drop (m + 1), seq := .rst .low }.emit .awaited) := by
  induction m generalizing s with
  | zero =>
    obtain ⟨p, rest, hi, hp⟩ := quiet_succ h
    have hl : p.owIn = true := by simpa [State.level, hi] using hr.2
    simp [hi, awaitFrom, hp, hl]
  | succ m ih =>
    obtain ⟨p, rest, hi, hp⟩ := quiet_succ h
    have hl : p.owIn = false := by simpa [State.level, hi] using hr.1 0 (by omega)
    have hq : State.quiet { s with inputs := rest } (m + 1) :=
      quiet_drop (s := s) (n := 1) (by simp [hi]) (by simpa [Nat.add_comm] using h)
    have hlev : ∀ k, State.level { s with inputs := rest } k = s.level (k + 1) := by
      intro k; simp [State.level, hi]
    have hr' : State.risesAfter { s with inputs := rest } m :=
      ⟨fun k hk => by rw [hlev]; exact hr.1 (k + 1) (by omega), by rw [hlev]; exact hr.2⟩
    have := ih hq hr'
    simp only [hi, awaitFrom, hp, hl] at this ⊢
    simpa using this

/-- The state after an initialization sequence: the presence sample is kept for the end (R264). -/
def State.ranInit (P : Profile) (s : State) (m : Nat) : State :=
  { s.ran (initAnswers m) (initTrace P (s.presenceAt m)) with
      seq := .rst .low, hid := { s.hid with presence := some (!s.presenceAt m) } }

/-- R122: the initialization sequence on a quiet line that rises. -/
theorem initSeq_quiet (P : Profile) (m : Nat) {s : State} (h : s.quiet (initAnswers m)) (hr : s.risesAfter m) :
    initSeq P s = .ok (!s.presenceAt m) (s.ranInit P m) := by
  have hq : ∀ {t : State} (n k : Nat), n + k = m + 4 → t.inputs = s.inputs.drop n → t.quiet k :=
    fun n k hnk hi => quiet_drop hi (by rw [hnk]; exact h)
  have hlev : (s.inputs.drop (m + 3))[0]? = s.inputs[m + 3]? := by simp
  have ha : awaitHigh s = .ok () ({ s with inputs := s.inputs.drop (m + 1), seq := .rst .low }.emit .awaited) := by
    have h1 : State.quiet { s with seq := .waitHigh } (m + 1) :=
      quiet_of_inputs (s := s) rfl (quiet_left (n := m + 1) (k := 3) h)
    have := awaitFrom_rises (s := { s with seq := .waitHigh }) m h1 ⟨hr.1, hr.2⟩
    simpa [awaitHigh] using this
  unfold initSeq
  rw [op_bind_ok ha, op_bind_ok (pinLow_quiet (n := 2) (hq (m + 1) 3 (by omega) (by simp))),
    op_bind_ok (delay_quiet (n := 2) P.H (hq (m + 2) 2 (by omega) (by simp [List.drop_drop]))),
    op_bind_ok (pinRelease_quiet (n := 1) (hq (m + 2) 2 (by omega) (by simp [List.drop_drop]))),
    op_bind_ok (delay_quiet (n := 1) P.I (hq (m + 3) 1 (by omega) (by simp [List.drop_drop]))),
    op_bind_ok (pinSample_quiet (n := 0) (hq (m + 3) 1 (by omega) (by simp [List.drop_drop]))),
    recordPresence, op_bind_ok (op_modify _ _),
    op_bind_ok (delay_quiet (n := 0) P.J (hq (m + 4) 0 (by omega) (by simp [List.drop_drop])))]
  simp [State.emit, State.driveLow, State.releaseLine, State.level, State.presenceAt, State.ranInit, State.ran,
    initTrace, initAnswers, List.drop_drop]

end Sys2Proof.Machine
end

