-- ==== Sys2Proof/Laws/Frame.lean ====
section
/-! SUPPORT. Everything a procedure of the sequencer can do on any line and with any host events: which errors it can
raise, whether it can be left waiting, and that no register or flag changes before the end of the operation. One lemma
per procedure, by composition. -/

namespace Sys2Proof.Machine

/-- Between two points of one operation: no register, no flag and no command word changed. -/
structure Working (s t : State) : Prop where
  addr     : t.addr = s.addr
  conflict : t.conflict = s.conflict
  data     : t.data = s.data
  crc      : t.crc = s.crc
  buf      : t.buf = s.buf
  cmd      : t.cmd = s.cmd
  done     : t.done = s.done
  err      : t.err = s.err
  presence : t.presence = s.presence
  bit      : t.bit = s.bit
  last     : t.last = s.last
  ecode    : t.ecode = s.ecode
  res      : t.res = s.res
  einfo    : t.einfo = s.einfo

theorem Working.refl (s : State) : Working s s := by constructor <;> rfl

theorem Working.trans {s t u : State} (h : Working s t) (k : Working t u) : Working s u := by
  obtain ⟨h1, h2, h3, h4, h5, h6, h7, h8, h9, h10, h11, h12, h13, h14⟩ := h
  obtain ⟨k1, k2, k3, k4, k5, k6, k7, k8, k9, k10, k11, k12, k13, k14⟩ := k
  constructor <;> simp only [*]

/-- How a run that started in `s` ended: `E` says which errors it may raise, `W` whether it may be left waiting. -/
def Ends {α : Type} (E : OpError → Prop) (W : Prop) (s : State) : EStateM.Result Stop State α → Prop
  | .ok _ t => Working s t
  | .error (.raised e) t => E e ∧ Working s t
  | .error .waiting t => W ∧ Working s t ∧ t.seq = .waitHigh
  | .error .rst t => ∃ u : State, t = u.afterRst

theorem Ends.of_working {α : Type} {E : OpError → Prop} {W : Prop} {s t : State} {r : EStateM.Result Stop State α}
    (h : Working s t) (hr : Ends E W t r) : Ends E W s r := by
  match r with
  | .ok _ u => exact h.trans hr
  | .error (.raised e) u => exact ⟨hr.1, h.trans hr.2⟩
  | .error .waiting u => exact ⟨hr.1, h.trans hr.2.1, hr.2.2⟩
  | .error .rst u => exact hr

/-- How a procedure can end, wherever it starts. -/
def Within {α : Type} (E : OpError → Prop) (W : Prop) (x : Op α) : Prop := ∀ s, Ends E W s (x s)

theorem Within.mono {α : Type} {E F : OpError → Prop} {W V : Prop} {x : Op α} (h : Within E W x)
    (hE : ∀ e, E e → F e) (hW : W → V) : Within F V x := by
  intro s
  have hs := h s
  match hx : x s with
  | .ok _ t => rw [hx] at hs; exact hs
  | .error (.raised e) t => rw [hx] at hs; exact ⟨hE e hs.1, hs.2⟩
  | .error .waiting t => rw [hx] at hs; exact ⟨hW hs.1, hs.2⟩
  | .error .rst t => rw [hx] at hs; exact hs

section Compose

variable {α β : Type} {E : OpError → Prop} {W : Prop}

theorem Within.pure (a : α) : Within E W (pure a : Op α) := fun s => Working.refl s

theorem Within.raise {e : OpError} (he : E e) : Within E W (raise e : Op α) := fun s => ⟨he, Working.refl s⟩

theorem Within.bind {x : Op α} {f : α → Op β} (hx : Within E W x) (hf : ∀ a, Within E W (f a)) :
    Within E W (x >>= f) := by
  intro s
  have h := hx s
  match hs : x s with
  | .ok a t =>
    rw [op_bind_ok hs]
    rw [hs] at h
    exact Ends.of_working h (hf a t)
  | .error (.raised e) t => rw [op_bind_error hs]; rw [hs] at h; exact h
  | .error .waiting t => rw [op_bind_error hs]; rw [hs] at h; exact h
  | .error .rst t => rw [op_bind_error hs]; rw [hs] at h; exact h

theorem Within.get_bind {f : State → Op β} (hf : ∀ a, Within E W (f a)) : Within E W (get >>= f) :=
  Within.bind (fun s => Working.refl s) hf

theorem Within.modify {f : State → State} (hf : ∀ s, Working s (f s)) : Within E W (modify f : Op Unit) :=
  fun s => hf s

end Compose

/-! ## Pin events -/

theorem settleFrom_ends (E : OpError → Prop) (W : Prop) (left : Nat) (l : List Input) (s : State) :
    Ends E W s (settleFrom left l s) := by
  induction l generalizing s with
  | nil => exact Working.refl s
  | cons x rest ih =>
    match x with
    | .pins p => exact Working.refl s
    | .host h => exact Working.refl s
    | .during (.rst t) => exact ⟨_, rfl⟩
    | .during (.write off d) => exact Ends.of_working (by constructor <;> rfl) (ih { s with inputs := rest })
    | .during (.read off) => exact Ends.of_working (by constructor <;> rfl) (ih ({ s with inputs := rest }.readReg off))

theorem settle_within (E : OpError → Prop) (W : Prop) (left : Nat) : Within E W (settle left) :=
  fun s => settleFrom_ends E W left s.inputs s

/-- A `PinFault` error. -/
def OpError.isPinFault : OpError → Prop
  | .pinFault _ => True
  | _ => False

theorem look_working (s : State) : Working s s.look.2 := by
  unfold State.look
  split <;> constructor <;> rfl

theorem pinEvent_within {W : Prop} {act : Bool → State → State} (hact : ∀ b s, Working s (act b s)) :
    Within OpError.isPinFault W (pinEvent act) := by
  intro s
  have h := settle_within OpError.isPinFault W 0 s
  unfold pinEvent
  match hs : settle 0 s with
  | .error (.raised e) t => rw [hs] at h; exact h
  | .error .waiting t => rw [hs] at h; exact h
  | .error .rst t => rw [hs] at h; exact h
  | .ok _ t =>
    rw [hs] at h
    refine Ends.of_working (Working.trans h (look_working t)) ?_
    by_cases hp : t.look.1.pinFault = true
    · simp only [hp, if_true]
      exact ⟨trivial, by constructor <;> rfl⟩
    · simp only [hp]
      exact hact _ _

theorem emit_working (e : PinEvent) (s : State) : Working s (s.emit e) := by constructor <;> rfl

theorem pinLow_within (W : Prop) : Within OpError.isPinFault W pinLow :=
  Within.bind (pinEvent_within fun _ _ => by constructor <;> rfl) fun _ => Within.pure _

theorem pinRelease_within (W : Prop) : Within OpError.isPinFault W pinRelease :=
  Within.bind (pinEvent_within fun _ _ => by constructor <;> rfl) fun _ => Within.pure _

theorem pinSample_within (W : Prop) : Within OpError.isPinFault W pinSample :=
  pinEvent_within fun _ s => emit_working _ s

theorem delay_within (E : OpError → Prop) (W : Prop) (t : Nat) : Within E W (delay t) :=
  Within.bind (settle_within E W t) fun _ => Within.modify fun s => emit_working _ s

theorem awaitFrom_ends (l : List Input) (s : State) (hs : s.seq = .waitHigh) :
    Ends OpError.isPinFault True s (awaitFrom l s) := by
  induction l generalizing s with
  | nil => exact ⟨trivial, Working.refl s, hs⟩
  | cons x rest ih =>
    match x with
    | .host h => exact ⟨trivial, Working.refl s, hs⟩
    | .during (.rst t) => exact ⟨_, rfl⟩
    | .during (.write off d) => exact Ends.of_working (by constructor <;> rfl) (ih { s with inputs := rest } hs)
    | .during (.read off) =>
      exact Ends.of_working (by constructor <;> rfl) (ih ({ s with inputs := rest }.readReg off) hs)
    | .pins p =>
      unfold awaitFrom
      by_cases hp : p.pinFault = true
      · simp only [hp, if_true]
        exact ⟨trivial, by constructor <;> rfl⟩
      · by_cases hl : p.owIn = true
        · simp only [hp, hl, if_true]
          constructor <;> rfl
        · simp only [hp, hl]
          exact Ends.of_working (by constructor <;> rfl) (ih { s with inputs := rest } hs)

theorem awaitHigh_within : Within OpError.isPinFault True awaitHigh := fun s =>
  Ends.of_working (t := { s with seq := .waitHigh }) (by constructor <;> rfl) (awaitFrom_ends s.inputs _ rfl)

/-! ## The timing primitives and the codec -/

theorem initSeq_within (P : Profile) : Within OpError.isPinFault True (initSeq P) :=
  Within.bind awaitHigh_within fun _ => Within.bind (pinLow_within _) fun _ => Within.bind (delay_within _ _ _) fun _ =>
  Within.bind (pinRelease_within _) fun _ => Within.bind (delay_within _ _ _) fun _ =>
  Within.bind (pinSample_within _) fun _ => Within.bind (Within.modify fun _ => by constructor <;> rfl) fun _ =>
  Within.bind (delay_within _ _ _) fun _ => Within.pure _

theorem readBit_within (W : Prop) (P : Profile) : Within OpError.isPinFault W (readBit P) :=
  Within.bind (pinLow_within _) fun _ => Within.bind (delay_within _ _ _) fun _ =>
  Within.bind (pinRelease_within _) fun _ => Within.bind (delay_within _ _ _) fun _ =>
  Within.bind (pinSample_within _) fun _ => Within.bind (delay_within _ _ _) fun _ => Within.pure _

theorem writeBit_within (W : Prop) (P : Profile) (b : Bool) : Within OpError.isPinFault W (writeBit P b) :=
  Within.bind (pinLow_within _) fun _ => Within.bind (delay_within _ _ _) fun _ =>
  Within.bind (pinRelease_within _) fun _ => delay_within _ _ _

theorem readBits_within (W : Prop) (n : Nat) (acc : Byte) : Within OpError.isPinFault W (readBits n acc) := by
  induction n generalizing acc with
  | zero => exact Within.pure _
  | succ n ih => exact Within.bind (readBit_within _ _) fun _ => ih _

theorem readByte_within (W : Prop) : Within OpError.isPinFault W readByte := readBits_within _ _ _

theorem writeBits_within (W : Prop) (l : List Bool) : Within OpError.isPinFault W (writeBits l) := by
  induction l with
  | nil => exact Within.pure _
  | cons b r ih => exact Within.bind (writeBit_within _ _ _) fun _ => ih

theorem writeByte_within (W : Prop) (v : Byte) : Within OpError.isPinFault W (writeByte v) := writeBits_within _ _

theorem busRead_within (W : Prop) (n : Nat) : Within OpError.isPinFault W (busRead n) := by
  induction n with
  | zero => exact Within.pure _
  | succ n ih => exact Within.bind (readByte_within _) fun _ => Within.bind ih fun _ => Within.pure _

theorem busWrite_within (W : Prop) (l : List Byte) : Within OpError.isPinFault W (busWrite l) := by
  induction l with
  | nil => exact Within.pure _
  | cons v r ih => exact Within.bind (writeByte_within _ _) fun _ => ih

/-! ## Checks, addressing, search, function commands -/

/-- A `ChecksumMismatch` with a remainder that is not 0. -/
def OpError.isChecksum : OpError → Prop
  | .checksumMismatch c => c ≠ 0#8
  | _ => False

/-- An `InvalidConfig` with a byte that is no configuration pattern. -/
def OpError.isConfig : OpError → Prop
  | .invalidConfig v => configIndex v = none
  | _ => False

theorem checkCrc_within (W : Prop) (data : List Byte) : Within OpError.isChecksum W (checkCrc data) := by
  unfold checkCrc
  split
  · exact Within.pure _
  · next h => exact Within.raise h

theorem checkAddr_within (W : Prop) : Within OpError.isChecksum W checkAddr :=
  Within.get_bind fun _ => checkCrc_within _ _

theorem validateConfig_within (W : Prop) (v : Byte) : Within OpError.isConfig W (validateConfig v) := by
  unfold validateConfig
  split
  · exact Within.pure _
  · next h => exact Within.raise h

/-- The errors of the addressing step: a pin fault, or nobody there. -/
def OpError.isLine (e : OpError) : Prop := e.isPinFault ∨ e = .noDevice

theorem prologue_within : Within OpError.isLine True prologue :=
  Within.bind ((initSeq_within _).mono (fun _ => Or.inl) id) fun p => by
    cases p
    · exact Within.raise (Or.inr rfl)
    · exact Within.pure _

theorem skipStep_within : Within OpError.isLine True skipStep :=
  Within.bind prologue_within fun _ => (writeByte_within _ _).mono (fun _ => Or.inl) id

theorem matchStep_within : Within OpError.isLine True matchStep :=
  Within.bind prologue_within fun _ => Within.bind ((writeByte_within _ _).mono (fun _ => Or.inl) id) fun _ =>
  Within.get_bind fun _ => (busWrite_within _ _).mono (fun _ => Or.inl) id

theorem searchFrom_within (W : Prop) (m : Word64) (last : Option Nat) (n i : Nat) (a wmask : Word64) :
    Within OpError.isLine W (searchFrom m last n i a wmask) := by
  induction n generalizing i a wmask with
  | zero => exact Within.pure _
  | succ n ih =>
    refine Within.bind ((readBit_within _ _).mono (fun _ => Or.inl) id) fun r1 =>
      Within.bind ((readBit_within _ _).mono (fun _ => Or.inl) id) fun r2 => ?_
    split
    · exact Within.raise (Or.inr rfl)
    · exact Within.bind ((writeBit_within _ _ _).mono (fun _ => Or.inl) id) fun _ => ih _ _ _

theorem startPass_within (E : OpError → Prop) (W : Prop) : Within E W startPass :=
  Within.modify fun _ => by constructor <;> rfl

theorem addressing_within (am : AddrMode) : Within OpError.isLine (am ≠ .noAddr) (addressing am) := by
  cases am
  · exact Within.pure _
  · exact skipStep_within.mono (fun _ => id) (by simp)
  · exact matchStep_within.mono (fun _ => id) (by simp)

theorem addrOperandCheck_within (W : Prop) (am : AddrMode) :
    Within (fun e => am = .matchAddr ∧ e.isChecksum) W (addrOperandCheck am) := by
  cases am
  · exact Within.pure _
  · exact Within.pure _
  · exact (checkAddr_within W).mono (fun _ h => ⟨rfl, h⟩) id

end Sys2Proof.Machine
end

