-- ==== Sys2Proof/Laws/PerInstr.lean ====
section
/-! SUPPORT. Statements made once per constructor of `Instr`: where the fields of a command word stand (R90). -/

namespace Sys2Proof.Laws.CommandFields

/-- R90: each field of the command word holds what the instruction gives it, and the reserved bits are 0. -/
def Statement (i : Instr) : Prop :=
  opcOf (encode i) = i.opc ∧ amOf (encode i) = i.amField ∧ rsvLowOf (encode i) = 0#2 ∧ lenOf (encode i) = i.lenField
    ∧ immOf (encode i) = i.immField ∧ rsvHighOf (encode i) = 0#8

/-- R90, for the word of any four fields. -/
theorem commandWord_fields (imm : Byte) (len : BitVec 4) (am : BitVec 2) (opc : Byte) :
    opcOf (commandWord imm len am opc) = opc ∧ amOf (commandWord imm len am opc) = am
      ∧ rsvLowOf (commandWord imm len am opc) = 0#2 ∧ lenOf (commandWord imm len am opc) = len
      ∧ immOf (commandWord imm len am opc) = imm ∧ rsvHighOf (commandWord imm len am opc) = 0#8 := by
  refine ⟨?_, ?_, ?_, ?_, ?_, ?_⟩ <;> ext j hj <;>
    simp only [opcOf, amOf, rsvLowOf, lenOf, immOf, rsvHighOf, commandWord, BitVec.getElem_extractLsb',
      BitVec.getLsbD_append] <;>
    (repeat' split) <;> first | omega | (simp_all; done) | (simp_all; congr 1; omega)

theorem nop : Statement .nop := commandWord_fields _ _ _ _

theorem init : Statement .init := commandWord_fields _ _ _ _

theorem rbit : Statement .rbit := commandWord_fields _ _ _ _

theorem wbit (b : Bool) : Statement (.wbit b) := commandWord_fields _ _ _ _

theorem rbyte : Statement .rbyte := commandWord_fields _ _ _ _

theorem wbyte (imm8 : Byte) : Statement (.wbyte imm8) := commandWord_fields _ _ _ _

theorem rbytes (n : BitVec 4) : Statement (.rbytes n) := commandWord_fields _ _ _ _

theorem wbytes (n : BitVec 4) : Statement (.wbytes n) := commandWord_fields _ _ _ _

theorem crc (n : BitVec 4) : Statement (.crc n) := commandWord_fields _ _ _ _

theorem crcchk (n : BitVec 4) : Statement (.crcchk n) := commandWord_fields _ _ _ _

theorem readRom : Statement .readRom := commandWord_fields _ _ _ _

theorem matchRom : Statement .matchRom := commandWord_fields _ _ _ _

theorem skipRom : Statement .skipRom := commandWord_fields _ _ _ _

theorem searchRom : Statement .searchRom := commandWord_fields _ _ _ _

theorem alarmSearch : Statement .alarmSearch := commandWord_fields _ _ _ _

theorem convertT (am : AddrMode) : Statement (.convertT am) := commandWord_fields _ _ _ _

theorem recallE2 (am : AddrMode) : Statement (.recallE2 am) := commandWord_fields _ _ _ _

theorem readPower (am : AddrMode) : Statement (.readPower am) := commandWord_fields _ _ _ _

theorem copySp (am : AddrMode) : Statement (.copySp am) := commandWord_fields _ _ _ _

theorem readSp (am : AddrMode) : Statement (.readSp am) := commandWord_fields _ _ _ _

theorem writeSp (am : AddrMode) : Statement (.writeSp am) := commandWord_fields _ _ _ _

end Sys2Proof.Laws.CommandFields
end

