-- ==== Sys2Proof/Laws/Quiet.lean ====
section
/-! SUPPORT. The procedures inside an operation on a line that answers without faults: the state after so many answers
and events (`State.at_`), what the addressing step, the polls and the triplets make of it, and the two ends. -/

namespace Sys2Proof.Machine

/-! ## The ends of an operation -/

theorem operate_ok {w : Word} {body : Op Unit} {s t : State} (h : body (s.accept w) = .ok () t) :
    s.operate w body = t.finishOk := by
  simp only [State.operate, h]

theorem operate_raised {w : Word} {body : Op Unit} {s t : State} {e : OpError}
    (h : body (s.accept w) = .error (.raised e) t) : s.operate w body = t.raiseError e := by
  simp only [State.operate, h]

/-- The state inside an operation after `n` answers and the events `tr`, with the working state `h` at position `q`. -/
def State.at_ (s : State) (w : Word) (n : Nat) (tr : List PinEvent) (q : Seq) (h : Hidden) : State :=
  { s with
      cmd := w, done := false, err := false, ecode := 0#4, einfo := 0#8, seq := q, hid := h, trace := tr.reverse,
      inputs := s.inputs.drop n, owDriveLow := if n = 0 then s.owDriveLow else false }

theorem accept_eq_at (s : State) (w : Word) :
    s.accept w = s.at_ w 0 [] .decode { s.hid with presence := none, tmr := 0 } := rfl

theorem at_ran (s : State) (w : Word) (n k : Nat) (tr tr' : List PinEvent) (q : Seq) (h : Hidden) :
    (s.at_ w n tr q h).ran k tr' = s.at_ w (n + k) (tr ++ tr') q h := by
  simp only [State.at_, State.ran, List.drop_drop, List.reverse_append]
  by_cases hk : k = 0 <;> by_cases hn : n = 0 <;> simp [hk, hn]

theorem level_at (s : State) (w : Word) (n k : Nat) (tr : List PinEvent) (q : Seq) (h : Hidden) :
    (s.at_ w n tr q h).level k = s.level (n + k) := by
  simp [State.level, State.at_, List.getElem?_drop]

theorem quiet_at {s : State} {w : Word} {n k : Nat} {tr : List PinEvent} {q : Seq} {h : Hidden}
    (hq : s.quiet (n + k)) : (s.at_ w n tr q h).quiet k := quiet_drop (s := s) rfl hq

theorem readAt_at (s : State) (w : Word) (n k : Nat) (tr : List PinEvent) (q : Seq) (h : Hidden) :
    (s.at_ w n tr q h).readAt k = s.readAt (n + k) := by simp [State.readAt, level_at, Nat.add_assoc]

theorem byteAt_at (s : State) (w : Word) (n k : Nat) (tr : List PinEvent) (q : Seq) (h : Hidden) :
    (s.at_ w n tr q h).byteAt k = s.byteAt (n + k) := by simp [State.byteAt, readAt_at, Nat.add_assoc]

theorem bytesAt_at (s : State) (w : Word) (n k j : Nat) (tr : List PinEvent) (q : Seq) (h : Hidden) :
    (s.at_ w n tr q h).bytesAt k j = s.bytesAt (n + k) j := by simp [State.bytesAt, byteAt_at, Nat.add_assoc]

theorem risesAfter_at {s : State} {w : Word} {q : Seq} {h : Hidden} {m : Nat} (hr : s.risesAfter m) :
    (s.at_ w 0 [] q h).risesAfter m := hr

theorem raiseError_at (s : State) (w : Word) (n : Nat) (tr : List PinEvent) (q : Seq) (h : Hidden) (e : OpError) :
    (s.at_ w n tr q h).raiseError e = s.endedError w n tr h.presence e := rfl

theorem finishOk_at (s : State) (w : Word) (n : Nat) (tr : List PinEvent) (q : Seq) (h : Hidden) :
    (s.at_ w n tr q h).finishOk
      = s.endedOk w n tr fun u => { u with presence := h.presence.getD s.presence } := rfl

/-! ## Addressing -/

theorem initSeq_at (m : Nat) {s : State} {w : Word} {q : Seq} {h : Hidden} (hq : s.quiet (initAnswers m))
    (hr : s.risesAfter m) :
    initSeq Config.profile (s.at_ w 0 [] q h) = .ok (!s.presenceAt m)
      (s.at_ w (initAnswers m) (initTrace Config.profile (s.presenceAt m)) (.rst .low)
        { h with presence := some (!s.presenceAt m) }) := by
  have hq' : (s.at_ w 0 [] q h).quiet (initAnswers m) := quiet_at (by simpa using hq)
  rw [initSeq_quiet Config.profile m hq' (risesAfter_at hr)]
  have hp : (s.at_ w 0 [] q h).presenceAt m = s.presenceAt m := by simp [State.presenceAt, level_at]
  simp only [State.ranInit, hp, at_ran, Nat.zero_add, List.nil_append]
  rfl

theorem prologue_at (m : Nat) {s : State} {w : Word} {q : Seq} {h : Hidden} (hq : s.quiet (initAnswers m))
    (hr : s.risesAfter m) (hp : s.presenceAt m = false) :
    prologue (s.at_ w 0 [] q h) = .ok ()
      (s.at_ w (initAnswers m) (initTrace Config.profile false) (.rst .low) { h with presence := some true }) := by
  rw [prologue, op_bind_ok (initSeq_at m hq hr)]
  simp [hp]

theorem prologue_absent (m : Nat) {s : State} {w : Word} {q : Seq} {h : Hidden} (hq : s.quiet (initAnswers m))
    (hr : s.risesAfter m) (hp : s.presenceAt m = true) :
    prologue (s.at_ w 0 [] q h) = .error (.raised .noDevice)
      (s.at_ w (initAnswers m) (initTrace Config.profile true) (.rst .low) { h with presence := some false }) := by
  rw [prologue, op_bind_ok (initSeq_at m hq hr)]
  simp [hp]

theorem writeByte_at (v : Byte) {s : State} {w : Word} {n : Nat} {tr : List PinEvent} {q : Seq} {h : Hidden}
    (hq : s.quiet (n + 16)) :
    writeByte v (s.at_ w n tr q h) = .ok () (s.at_ w (n + 16) (tr ++ writeByteTrace v) q h) := by
  rw [writeByte_quiet v (quiet_at hq), at_ran]

theorem busWrite_at (l : List Byte) {s : State} {w : Word} {n : Nat} {tr : List PinEvent} {q : Seq} {h : Hidden}
    (hq : s.quiet (n + 16 * l.length)) :
    busWrite l (s.at_ w n tr q h) = .ok () (s.at_ w (n + 16 * l.length) (tr ++ writeBytesTrace l) q h) := by
  rw [busWrite_quiet l (quiet_at hq), at_ran]

theorem busRead_at (j : Nat) {s : State} {w : Word} {n : Nat} {tr : List PinEvent} {q : Seq} {h : Hidden}
    (hq : s.quiet (n + 24 * j)) :
    busRead j (s.at_ w n tr q h)
      = .ok (s.bytesAt n j) (s.at_ w (n + 24 * j) (tr ++ readBytesTrace (s.bytesAt n j)) q h) := by
  rw [busRead_quiet j (quiet_at hq), at_ran, bytesAt_at, Nat.add_zero]

theorem readBit_at {s : State} {w : Word} {n : Nat} {tr : List PinEvent} {q : Seq} {h : Hidden} (hq : s.quiet (n + 3)) :
    readBit Config.profile (s.at_ w n tr q h)
      = .ok (s.readAt n) (s.at_ w (n + 3) (tr ++ readSlotTrace Config.profile (s.readAt n)) q h) := by
  rw [readBit_quiet _ (quiet_at hq), at_ran, readAt_at, Nat.add_zero]

theorem writeBit_at (b : Bool) {s : State} {w : Word} {n : Nat} {tr : List PinEvent} {q : Seq} {h : Hidden}
    (hq : s.quiet (n + 2)) :
    writeBit Config.profile b (s.at_ w n tr q h)
      = .ok () (s.at_ w (n + 2) (tr ++ writeSlotTrace Config.profile b) q h) := by
  rw [writeBit_quiet _ _ (quiet_at hq), at_ran]

/-- Where the sequencer stands after the addressing step. -/
def addrSeq (am : AddrMode) (q : Seq) : Seq :=
  match am with
  | .noAddr => q
  | .skipAddr => .rst .low
  | .matchAddr => .rst .low

/-- The presence latch after the addressing step. -/
def addrLatch (am : AddrMode) (h : Hidden) : Hidden :=
  match am with
  | .noAddr => h
  | .skipAddr => { h with presence := some true }
  | .matchAddr => { h with presence := some true }

/-- R160: a check that passes. -/
theorem checkCrc_ok {data : List Byte} (h : crc8 data = 0#8) (s : State) : checkCrc data s = .ok () s := by
  simp [checkCrc, h]

/-- R160: a check that fails. -/
theorem checkCrc_bad {data : List Byte} (h : crc8 data ≠ 0#8) (s : State) :
    checkCrc data s = .error (.raised (.checksumMismatch (crc8 data))) s := by
  simp [checkCrc, h]

/-- R210 step (0) with a valid `ADDR`. -/
theorem addrOperandCheck_ok {am : AddrMode} {s : State} (h : am = .matchAddr → crc8 (bytesOf s.addr) = 0#8) :
    addrOperandCheck am s = .ok () s := by
  cases am with
  | noAddr => rfl
  | skipAddr => rfl
  | matchAddr => exact checkCrc_ok (h rfl) s

/-- R210 step (0) with an invalid `ADDR`. -/
theorem addrOperandCheck_bad {s : State} (h : crc8 (bytesOf s.addr) ≠ 0#8) :
    addrOperandCheck .matchAddr s = .error (.raised (.checksumMismatch (crc8 (bytesOf s.addr)))) s :=
  checkCrc_bad h s

theorem addressable_addr {s : State} {am : AddrMode} {m : Nat} (h : s.addressable am m) :
    am = .matchAddr → crc8 (bytesOf s.addr) = 0#8 := by
  rintro rfl; exact h.1

/-- R225: the byte of an index is valid and gives that index. -/
theorem validateConfig_ok (idx : BitVec 2) (s : State) : validateConfig (configByte idx) s = .ok idx s := by
  have h : ∀ i : BitVec 2, configIndex (configByte i) = some i := by decide
  simp [validateConfig, h]

/-- R210 step (1) on a quiet line. -/
theorem addressing_at (am : AddrMode) (m : Nat) {s : State} {w : Word} {q : Seq} {h : Hidden}
    (ha : s.addressable am m) (hq : s.quiet (addrAnswers am m)) :
    addressing am (s.at_ w 0 [] q h) = .ok ()
      (s.at_ w (addrAnswers am m) (addrTrace am s.addr) (addrSeq am q) (addrLatch am h)) := by
  cases am with
  | noAddr => rfl
  | skipAddr =>
    obtain ⟨hr, hp⟩ := ha
    have hq' : s.quiet (initAnswers m) := quiet_left (k := 16) hq
    simp only [addressing, skipStep]
    rw [op_bind_ok (prologue_at m hq' hr hp), addrCmdByte, writeByte_at _ hq]
    rfl
  | matchAddr =>
    obtain ⟨_, hr, hp⟩ := ha
    have hq2 : s.quiet (initAnswers m + 16) := quiet_left (k := 128) hq
    have hq' : s.quiet (initAnswers m) := quiet_left (k := 16) hq2
    simp only [addressing, matchStep]
    rw [op_bind_ok (prologue_at m hq' hr hp), addrCmdByte, op_bind_ok (writeByte_at _ hq2), op_bind_ok (op_get _)]
    exact busWrite_at (bytesOf s.addr) hq

/-- R210 steps (0) to (2) on a quiet line: what is left is the body. -/
theorem functionFrame_at (am : AddrMode) (m : Nat) {check body : Op Unit} {c : Byte} {s : State} {w : Word} {q : Seq}
    {h : Hidden} (hc : check (s.at_ w 0 [] q h) = .ok () (s.at_ w 0 [] q h)) (ha : s.addressable am m)
    (hq : s.quiet (addrAnswers am m + 16)) :
    functionFrame am check c body (s.at_ w 0 [] q h)
      = body (s.at_ w (addrAnswers am m + 16) (addrTrace am s.addr ++ writeByteTrace c) (addrSeq am q)
          (addrLatch am h)) := by
  have h0 : addrOperandCheck am (s.at_ w 0 [] q h) = .ok () (s.at_ w 0 [] q h) :=
    addrOperandCheck_ok (addressable_addr ha)
  rw [functionFrame, op_bind_ok h0, op_bind_ok hc, op_bind_ok (addressing_at am m ha (quiet_left hq)),
    op_bind_ok (writeByte_at c hq)]

/-! ## Polls and triplets -/

theorem pollFrom_ready (p : Nat) {s : State} {w : Word} {n c : Nat} {tr : List PinEvent} {q : Seq} {h : Hidden}
    (hp : p < c) (hq : s.quiet (n + 3 * (p + 1))) (h0 : ∀ k, k < p → s.readAt (n + 3 * k) = false)
    (h1 : s.readAt (n + 3 * p) = true) :
    pollFrom c (s.at_ w n tr q h) = .ok ()
      ((s.at_ w (n + 3 * (p + 1)) (tr ++ (List.replicate p (readSlotTrace Config.profile false)).flatten
        ++ readSlotTrace Config.profile true) q h).setBitFlag true) := by
  induction p generalizing n c tr with
  | zero =>
    obtain ⟨c, rfl⟩ : ∃ d, c = d + 1 := ⟨c - 1, by omega⟩
    simp only [Nat.mul_zero, Nat.add_zero] at h1
    rw [pollFrom, op_bind_ok (readBit_at (by simpa using hq))]
    simp [h1]
  | succ p ih =>
    obtain ⟨c, rfl⟩ : ∃ d, c = d + 1 := ⟨c - 1, by omega⟩
    have hf : s.readAt n = false := by simpa using h0 0 (by omega)
    have e : n + 3 + 3 * (p + 1) = n + 3 * (p + 1 + 1) := by omega
    have hq' : s.quiet (n + 3 + 3 * (p + 1)) := by rw [e]; exact hq
    rw [pollFrom, op_bind_ok (readBit_at (quiet_left hq'))]
    simp only [hf, Bool.false_eq_true, if_false]
    rw [ih (by omega) hq' (fun k hk => by
        have := h0 (k + 1) (by omega)
        rwa [show n + 3 * (k + 1) = n + 3 + 3 * k by omega] at this)
      (by rwa [show n + 3 * (p + 1) = n + 3 + 3 * p by omega] at h1), e]
    simp [List.replicate_succ, List.append_assoc]

theorem pollFrom_timeout (c : Nat) {s : State} {w : Word} {n : Nat} {tr : List PinEvent} {q : Seq} {h : Hidden}
    (hq : s.quiet (n + 3 * c)) (h0 : ∀ k, k < c → s.readAt (n + 3 * k) = false) :
    pollFrom c (s.at_ w n tr q h) = .error (.raised .timeout)
      (s.at_ w (n + 3 * c) (tr ++ (List.replicate c (readSlotTrace Config.profile false)).flatten) q h) := by
  induction c generalizing n tr with
  | zero => simp [pollFrom]
  | succ c ih =>
    have hf : s.readAt n = false := by simpa using h0 0 (by omega)
    have e : n + 3 + 3 * c = n + 3 * (c + 1) := by omega
    have hq' : s.quiet (n + 3 + 3 * c) := by rw [e]; exact hq
    rw [pollFrom, op_bind_ok (readBit_at (quiet_left hq'))]
    simp only [hf, Bool.false_eq_true, if_false]
    rw [ih hq' (fun k hk => by
        have := h0 (k + 1) (by omega)
        rwa [show n + 3 * (k + 1) = n + 3 + 3 * k by omega] at this), e]
    simp [List.replicate_succ, List.append_assoc]

/-- The trace of the triplets of positions `i` to `i + c - 1`. -/
def tripletsFrom (m : Word64) (rd : Reads) (i c : Nat) : List PinEvent :=
  (List.range' i c).flatMap (tripletTrace m rd)

theorem searchFrom_ok (m : Word64) (c : Nat) {s : State} {w : Word} {n i : Nat} {a wmask : Word64} {r : Word64 × Word64}
    {tr : List PinEvent} {q : Seq} {h : Hidden} {rd : Reads} (hq : s.quiet (n + 8 * c))
    (hrd : ∀ j, j < c → rd (i + j) = (s.readAt (n + 8 * j), s.readAt (n + 8 * j + 3)))
    (hw : walk m rd c i a wmask = some r) :
    searchFrom m (highestSet m) c i a wmask (s.at_ w n tr q h)
      = .ok r (s.at_ w (n + 8 * c) (tr ++ tripletsFrom m rd i c) q h) := by
  induction c generalizing n i a wmask tr with
  | zero => simp_all [walk, searchFrom, tripletsFrom]
  | succ c ih =>
    have e : n + 8 + 8 * c = n + 8 * (c + 1) := by omega
    have hq' : s.quiet (n + 8 + 8 * c) := by rw [e]; exact hq
    have h8 : s.quiet (n + 8) := quiet_left hq'
    have hi : rd i = (s.readAt n, s.readAt (n + 3)) := by simpa using hrd 0 (by omega)
    rw [walk] at hw
    split at hw
    · cases hw
    · next hn =>
      rw [searchFrom, op_bind_ok (readBit_at (quiet_left (k := 5) h8)),
        op_bind_ok (readBit_at (quiet_left (k := 2) h8))]
      rw [hi] at hw hn
      simp only [hn]
      simp only [Bool.false_eq_true, if_false]
      rw [op_bind_ok (writeBit_at _ h8), ih hq' (fun j hj => by
          have := hrd (j + 1) (by omega)
          rwa [show i + (j + 1) = i + 1 + j by omega, show n + 8 * (j + 1) = n + 8 + 8 * j by omega] at this) hw, e]
      simp [tripletsFrom, List.range'_succ, tripletTrace, hi]

theorem searchFrom_nobody (m : Word64) (k : Nat) {s : State} {w : Word} {n i c : Nat} {a wmask : Word64}
    {tr : List PinEvent} {q : Seq} {h : Hidden} {rd : Reads} (hk : k < c) (hq : s.quiet (n + 8 * k + 6))
    (hrd : ∀ j, j ≤ k → rd (i + j) = (s.readAt (n + 8 * j), s.readAt (n + 8 * j + 3)))
    (h0 : ∀ j, j < k → rd (i + j) ≠ (true, true)) (h1 : rd (i + k) = (true, true)) :
    searchFrom m (highestSet m) c i a wmask (s.at_ w n tr q h) = .error (.raised .noDevice)
      (s.at_ w (n + 8 * k + 6) (tr ++ tripletsFrom m rd i k ++ readSlotTrace Config.profile true
        ++ readSlotTrace Config.profile true) q h) := by
  induction k generalizing n i c a wmask tr with
  | zero =>
    obtain ⟨c, rfl⟩ : ∃ d, c = d + 1 := ⟨c - 1, by omega⟩
    have h := hrd 0 (by omega)
    rw [h1] at h
    simp only [Nat.mul_zero, Nat.add_zero, Prod.mk.injEq] at h
    have hq' : s.quiet (n + 3 + 3) := by simpa using hq
    rw [searchFrom, op_bind_ok (readBit_at (quiet_left hq')), op_bind_ok (readBit_at hq')]
    simp [← h.1, ← h.2, tripletsFrom]
  | succ k ih =>
    obtain ⟨c, rfl⟩ : ∃ d, c = d + 1 := ⟨c - 1, by omega⟩
    have e : n + 8 + (8 * k + 6) = n + 8 * (k + 1) + 6 := by omega
    have hq' : s.quiet (n + 8 + (8 * k + 6)) := by rw [e]; exact hq
    have h8 : s.quiet (n + 8) := quiet_left hq'
    have hi : rd i = (s.readAt n, s.readAt (n + 3)) := by simpa using hrd 0 (by omega)
    have hn : (s.readAt n && s.readAt (n + 3)) = false := by
      have := h0 0 (by omega)
      simp only [Nat.add_zero, hi] at this
      cases h1 : s.readAt n <;> cases h2 : s.readAt (n + 3) <;> simp_all
    rw [searchFrom, op_bind_ok (readBit_at (quiet_left (k := 5) h8)), op_bind_ok (readBit_at (quiet_left (k := 2) h8))]
    simp only [hn, Bool.false_eq_true, if_false]
    rw [op_bind_ok (writeBit_at _ h8), ih (by omega) (by simpa [Nat.add_assoc] using hq') (fun j hj => by
        have := hrd (j + 1) (by omega)
        rwa [show i + (j + 1) = i + 1 + j by omega, show n + 8 * (j + 1) = n + 8 + 8 * j by omega] at this)
      (fun j hj => by have := h0 (j + 1) (by omega); rwa [show i + (j + 1) = i + 1 + j by omega] at this)
      (by rwa [show i + (k + 1) = i + 1 + k by omega] at h1)]
    simp [tripletsFrom, List.range'_succ, tripletTrace, hi, ← e, Nat.add_assoc]

/-- A pass starts from the mask and its highest bit (R188, R190). -/
theorem startPass_at (s : State) (w : Word) (h : Hidden) :
    startPass (s.at_ w 0 [] .decode h)
      = .ok () (s.at_ w 0 [] .decode
          { h with wmask := s.conflict, lastPos := highestSet s.conflict, stg := 0#72, crcw := 0#8 }) := rfl

end Sys2Proof.Machine
end

