-- ==== Sys2Proof/Tests/Slice0.lean ====
section
/-! SUPPORT. Tests. Expected results come from the spec: the worked examples of the operation rules and the vectors of
95_test_vectors.md, named at each test (V-...). The last part has one witness per obligation with hypotheses. -/

open Sys2Proof Sys2Proof.Machine

namespace Sys2Proof.Tests

-- one theorem after the other: the tests together would start more threads than the checks allow
set_option Elab.async false

/-! ## A scripted line -/

/-- One answer without a fault. -/
def ans (b : Bool) : Input := .pins ⟨b, false, 0x33#8⟩
/-- One answer with a fault. -/
def flt (c : Byte) : Input := .pins ⟨true, true, c⟩
/-- An initialization sequence on a line that is high, with presence sample `p`. -/
def ansInit (p : Bool) : List Input := [ans true, ans false, ans true, ans p]
/-- A read slot that samples `b`. -/
def ansRead (b : Bool) : List Input := [ans true, ans false, ans b]
/-- A write slot. -/
def ansWrite : List Input := [ans true, ans false]
/-- A byte read. -/
def ansByte (v : Byte) : List Input := (bitsOf v).flatMap ansRead
/-- Bytes read. -/
def ansBytes (l : List Byte) : List Input := l.flatMap ansByte
/-- A byte written. -/
def ansTx : List Input := List.replicate 16 (ans true)
/-- The triplets of a pass on a bus where only the slave with code `a` answers, but for a conflict at the positions
`c`. -/
def ansTriplets (a : Word64) (c : List Nat) : List Input :=
  (List.range 64).flatMap fun i =>
    ansRead (a.getLsbD i && !c.contains i) ++ ansRead (!a.getLsbD i && !c.contains i) ++ ansWrite

/-- The reset state with a script. -/
def script (l : List Input) : State := { State.reset with inputs := l }

/-- `BUF` of a script. -/
def bufOf (l : List Byte) : Vector Byte 9 := storeBytes State.reset.buf 0 l

/-- The scratchpad image V-SP1. -/
def image : List Byte := [0x63#8, 0x01#8, 0x4B#8, 0x46#8, 0x7F#8, 0xFF#8, 0x0D#8, 0x10#8, 0x15#8]

/-- ROM codes A, B, C, X of the fixture. -/
def romA : Word64 := 0x2900000000000128#64
def romB : Word64 := 0x7000000000000228#64
def romC : Word64 := 0x4700000000000328#64
def romX : Word64 := 0x1E00000000000028#64

/-- The state after an operation. -/
def after (i : Instr) (s : State) : State :=
  match exec i s with
  | .next t => t
  | .fault _ => s
  | .refused _ => s

theorem exec_after (i : Instr) (s : State) : exec i s = .next (after i s) := by cases i <;> rfl

theorem step_of_busy {s : State} (h : s.busy = true) : step s = .next s.tick := by simp [step, h]

/-- The state after one step. -/
def stepped (s : State) : State :=
  match step s with
  | .next t => t
  | .fault _ => s
  | .refused _ => s

/-! ## WellFormed and the configuration refuse ill-formed terms -/

theorem test_wellFormed_rbytes : (Instr.rbytes 10#4).wellFormed = false ∧ (Instr.rbytes 9#4).wellFormed = true := by decide
theorem test_wellFormed_wbytes : (Instr.wbytes 15#4).wellFormed = false ∧ (Instr.wbytes 0#4).wellFormed = true := by decide
theorem test_wellFormed_crc : (Instr.crc 10#4).wellFormed = false ∧ (Instr.crc 9#4).wellFormed = true := by decide
theorem test_wellFormed_crcchk : (Instr.crcchk 12#4).wellFormed = false ∧ (Instr.crcchk 9#4).wellFormed = true := by decide
/-- R6: unequal slots, and an interval of 0. -/
theorem test_profile_refused :
    { Profile.std with B := 64001 }.wellFormed = false ∧ { Profile.std with I := 0 }.wellFormed = false := by decide
/-- R218: 143 polls. R132: 480 µs at 1 µs. -/
theorem test_config : Config.recallPolls = 143 ∧ Config.delayCycles 1000 Profile.std.H = 480
    ∧ Profile.std.fitsClock Config.tCopy Config.tRecall 1000 = true
    ∧ Profile.std.fitsClock Config.tCopy Config.tRecall 7 = false := by decide
/-- R231: 93.75 ms and 750 ms. -/
theorem test_conversion : Config.conversionNs 0#2 = 93750000 ∧ Config.conversionNs 3#2 = 750000000 := by decide

/-! ## Decoding: words written out from R90, R96 and the examples of R103 -/

theorem test_decode_primitives :
    decode 0x00000000#32 = .ok .nop ∧ decode 0x00000001#32 = .ok .init ∧ decode 0x00000002#32 = .ok .rbit
      ∧ decode 0x00010003#32 = .ok (.wbit true) ∧ decode 0x00000003#32 = .ok (.wbit false)
      ∧ decode 0x00000004#32 = .ok .rbyte ∧ decode 0x00440005#32 = .ok (.wbyte 0x44#8) := by decide
theorem test_decode_counts :
    decode 0x00009006#32 = .ok (.rbytes 9#4) ∧ decode 0x00003007#32 = .ok (.wbytes 3#4)
      ∧ decode 0x00008008#32 = .ok (.crc 8#4) ∧ decode 0x00009009#32 = .ok (.crcchk 9#4) := by decide
theorem test_decode_addressing :
    decode 0x00000033#32 = .ok .readRom ∧ decode 0x00000055#32 = .ok .matchRom ∧ decode 0x000000CC#32 = .ok .skipRom
      ∧ decode 0x000000F0#32 = .ok .searchRom ∧ decode 0x000000EC#32 = .ok .alarmSearch := by decide
theorem test_decode_functions :
    decode 0x00000144#32 = .ok (.convertT .skipAddr) ∧ decode 0x000000B8#32 = .ok (.recallE2 .noAddr)
      ∧ decode 0x000002B4#32 = .ok (.readPower .matchAddr) ∧ decode 0x00000248#32 = .ok (.copySp .matchAddr)
      ∧ decode 0x000002BE#32 = .ok (.readSp .matchAddr) ∧ decode 0x0000014E#32 = .ok (.writeSp .skipAddr) := by decide
/-- V-FSM3, V-CD9, V-FN17, V-FN18: illegal words, by the clause of R100 they break. -/
theorem test_decode_illegal :
    decode 0x0000000A#32 = .error .unknownOpcode ∧ decode 0x00020003#32 = .error .badImmediateBit
      ∧ decode 0x00001004#32 = .error .unusedField ∧ decode 0x01000000#32 = .error .reservedBits
      ∧ decode 0x00000400#32 = .error .reservedBits ∧ decode 0x00000100#32 = .error .unusedField
      ∧ decode 0x0000A006#32 = .error .lenTooLarge ∧ decode 0x0000034E#32 = .error .badAddrMode := by decide
theorem test_decodeTableWord : decodeTableWord 32 0x0000014E = some (.writeSp .skipAddr)
    ∧ decodeTableWord 32 0x00000300 = none ∧ decodeTableWord 32 (2 ^ 32) = none := by decide

/-! ## One step on a scripted line -/

/-- V-FSM1: the error indication is cleared, `PRESENCE` kept. -/
theorem test_nop : (after .nop
    { State.reset with done := true, err := true, ecode := 4#4, einfo := 0xA1#8, presence := true }).statusWord = 0x0000000A#32 := by decide +kernel
/-- V-TP1. -/
theorem test_init : (after .init (script (ansInit false))).statusWord = 0x0000000A#32 := by decide +kernel
/-- V-TP9: a fault at the first `PinLow`. -/
theorem test_init_fault : (after .init (script [ans true, flt 0x80#8])).statusWord = 0x00800106#32
    ∧ (after .init (script [ans true, flt 0x80#8])).pinTrace = [.awaited, .faulted 0x80#8] := by decide +kernel
/-- V-TP3. -/
theorem test_rbit : (after .rbit (script (ansRead true))).statusWord = 0x00000012#32 := by decide +kernel
/-- V-TP4, with the trace of R128's example. -/
theorem test_rbit_low : (after .rbit { script (ansRead false) with bit := true }).statusWord = 0x00000002#32
    ∧ (after .rbit (script (ansRead false))).pinTrace
        = [.low, .delay 6000, .release, .delay 9000, .sample false, .delay 55000] := by decide +kernel
/-- V-TP5, V-TP6. -/
theorem test_wbit : (after (.wbit true) (script ansWrite)).pinTrace = [.low, .delay 6000, .release, .delay 64000]
    ∧ (after (.wbit false) (script ansWrite)).pinTrace = [.low, .delay 60000, .release, .delay 10000] := by decide +kernel
/-- V-CD1, R146: the samples 1,0,1,0,0,1,0,1. -/
theorem test_rbyte : (after .rbyte (script ([true, false, true, false, false, true, false, true].flatMap ansRead))).data
    = 0xA5#8 := by decide +kernel
/-- V-CD2: `WBYTE 0x44`, the slots 0,0,1,0,0,0,1,0. -/
theorem test_wbyte : (after (.wbyte 0x44#8) (script ansTx)).pinTrace
    = [false, false, true, false, false, false, true, false].flatMap fun b =>
        if b then [.low, .delay 6000, .release, .delay 64000] else [.low, .delay 60000, .release, .delay 10000] := by
  decide +kernel
/-- V-CD8: a fault at the sixth pin event. -/
theorem test_wbyte_fault : (after (.wbyte 0x44#8) (script (List.replicate 5 (ans true) ++ [flt 0x07#8]))).statusWord
      = 0x00070106#32
    ∧ duration (after (.wbyte 0x44#8) (script (List.replicate 5 (ans true) ++ [flt 0x07#8]))).pinTrace = 146000 := by
  decide +kernel
/-- V-CD5: only `BUF[0..1]` is written. -/
theorem test_rbytes : (after (.rbytes 2#4) { script (ansBytes [0xA5#8, 0x5A#8]) with
      buf := bufOf [0x11#8, 0x22#8, 0x33#8, 0x44#8, 0x55#8, 0x66#8, 0x77#8, 0x88#8, 0x99#8] }).buf.toList
    = [0xA5#8, 0x5A#8, 0x33#8, 0x44#8, 0x55#8, 0x66#8, 0x77#8, 0x88#8, 0x99#8] := by decide +kernel
/-- V-CD7: 2240 µs. -/
theorem test_wbytes : duration (after (.wbytes 4#4) { script (List.replicate 64 (ans true)) with
      buf := bufOf [0x4E#8, 0x4B#8, 0x46#8, 0x7F#8] }).pinTrace = 2240000 := by decide +kernel
/-- V-CRC20, V-CRC22. -/
theorem test_crc : (after (.crc 8#4) { State.reset with buf := bufOf image }).crc = 0x15#8
    ∧ (after (.crc 1#4) { State.reset with buf := bufOf image }).crc = 0x87#8 := by decide +kernel
/-- V-CRC24, V-CRC25. -/
theorem test_crcchk : (after (.crcchk 9#4) { State.reset with buf := bufOf image }).statusWord = 0x00000002#32
    ∧ (after (.crcchk 8#4) { State.reset with buf := bufOf image }).statusWord = 0x00150406#32 := by decide +kernel
/-- V-ROM1. -/
theorem test_readRom : (after .readRom (script (ansInit false ++ ansTx ++ ansBytes (bytesOf romA)))).addr
    = 0x2900000000000128#64 := by decide +kernel
/-- V-ROM2: the AND of A and B. -/
theorem test_readRom_collision : (after .readRom { script (ansInit false ++ ansTx
      ++ ansBytes [0x28#8, 0x00#8, 0x00#8, 0x00#8, 0x00#8, 0x00#8, 0x00#8, 0x20#8]) with addr := 0x1111#64 }).statusWord
    = 0x00A1040E#32 := by decide +kernel
/-- V-ROM4: 6000 µs. -/
theorem test_matchRom : duration (after .matchRom { script (ansInit false ++ List.replicate 144 (ans true)) with
      addr := romA }).pinTrace = 6000000 := by decide +kernel
/-- V-ROM3. -/
theorem test_matchRom_invalid : (after .matchRom { State.reset with addr := 0xA900000000000128#64 }).statusWord
    = 0x008C0406#32 := by decide +kernel
/-- V-ROM7, V-ROM6. -/
theorem test_skipRom : (after .skipRom (script (ansInit false ++ ansTx))).statusWord = 0x0000000A#32
    ∧ (after .skipRom { script (ansInit true) with presence := true }).statusWord = 0x00000206#32 := by decide +kernel
/-- V-SR3, pass 2: slaves A and X, a conflict at position 8. -/
theorem test_searchRom :
    let t := after .searchRom { script (ansInit false ++ ansTx ++ ansTriplets romA [8]) with conflict := 0x100#64 }
    t.addr = 0x2900000000000128#64 ∧ t.conflict = 0#64 ∧ t.statusWord = 0x0000002A#32 := by decide +kernel
/-- V-SR5, pass 2: case (d), the turning point read without a conflict. -/
theorem test_searchRom_removed :
    let t := after .searchRom { script (ansInit false ++ ansTx ++ ansTriplets romB []) with conflict := 0x100#64 }
    t.addr = 0x7000000000000228#64 ∧ t.conflict = 0#64 ∧ t.statusWord = 0x0000002A#32 := by decide +kernel
/-- V-SR6: nobody in alarm. -/
theorem test_alarmSearch_none :
    (after .alarmSearch { script (ansInit false ++ ansTx ++ ansRead true ++ ansRead true) with
      addr := 5#64, conflict := 0x100#64, last := true }).statusWord = 0x0000022E#32 := by decide +kernel
/-- V-SR7: only B answers. -/
theorem test_alarmSearch : (after .alarmSearch (script (ansInit false ++ ansTx ++ ansTriplets romB []))).addr
    = 0x7000000000000228#64 := by decide +kernel
/-- V-FN1: 2080 µs. -/
theorem test_convertT : duration (after (.convertT .skipAddr) (script (ansInit false ++ ansTx ++ ansTx))).pinTrace
    = 2080000 := by decide +kernel
/-- V-RC3, V-RC4. -/
theorem test_recallE2 :
    (after (.recallE2 .skipAddr) (script (ansInit false ++ ansTx ++ ansTx ++ ansRead true))).statusWord = 0x0000001A#32
      ∧ (after (.recallE2 .noAddr) (script (ansTx ++ ansRead true))).statusWord = 0x00000012#32 := by decide +kernel
/-- V-RC5: a line that stays low, 10 570 µs. -/
theorem test_recallE2_timeout :
    let t := after (.recallE2 .noAddr) (script (ansTx ++ List.replicate 429 (ans false)))
    t.statusWord = 0x00000306#32 ∧ duration t.pinTrace = 10570000 := by decide +kernel
/-- V-FN3, V-FN4. -/
theorem test_readPower :
    (after (.readPower .skipAddr) (script (ansInit false ++ ansTx ++ ansTx ++ ansRead true))).statusWord = 0x0000001A#32
      ∧ (after (.readPower .skipAddr) (script (ansInit false ++ ansTx ++ ansTx ++ ansRead false))).statusWord
          = 0x0000000A#32 := by decide +kernel
/-- V-FN16: 16 560 µs. -/
theorem test_copySp : duration (after (.copySp .matchAddr) { script (ansInit false ++ List.replicate 160 (ans true)) with
      addr := romA }).pinTrace = 16560000 := by decide +kernel
/-- V-FN6. -/
theorem test_readSp :
    let t := after (.readSp .skipAddr) (script (ansInit false ++ ansTx ++ ansTx ++ ansBytes image))
    t.buf.toList = image ∧ t.statusWord = 0x0000300A#32 := by decide +kernel
/-- V-FN11: nine zeros. -/
theorem test_readSp_zero : (after (.readSp .noAddr) (script (ansTx ++ ansBytes (List.replicate 9 0#8)))).statusWord
    = 0x00000506#32 := by decide +kernel
/-- V-FN13: 3760 µs. -/
theorem test_writeSp : duration (after (.writeSp .skipAddr) { script (ansInit false ++ List.replicate 80 (ans true)) with
      buf := bufOf [0#8, 0#8, 0x55#8, 0xAA#8, 0x1F#8] }).pinTrace = 3760000 := by decide +kernel
/-- V-FN15: the `ADDR` check comes first. -/
theorem test_writeSp_order : (after (.writeSp .matchAddr) { State.reset with addr := 0x2900000000000028#64 }).statusWord
    = 0x003D0406#32 := by decide +kernel

/-! ## The host's side -/

/-- V-FSM2: an unassigned code, through the step. -/
theorem test_illegal_step : (stepped (script [.host (.write offCmd 0x000000A5#32)])).statusWord = 0x00A50606#32
    ∧ (stepped (script [.host (.write offCmd 0x000000A5#32)])).hostRead offCmd = 0x000000A5#32 := by decide +kernel
/-- V-FSM6: only bits 7:0 of `BUF2` are stored. -/
theorem test_buf2_write : (stepped (script [.host (.write offBuf2 0x12345678#32)])).hostRead offBuf2 = 0x00000078#32 := by
  decide +kernel
/-- V-FN6: the image as the host sees it. -/
theorem test_buf_words : { State.reset with buf := bufOf image }.hostRead offBuf0 = 0x464B0163#32
    ∧ { State.reset with buf := bufOf image }.hostRead offBuf1 = 0x100DFF7F#32
    ∧ { State.reset with buf := bufOf image }.hostRead offBuf2 = 0x00000015#32 := by decide +kernel
/-- V-TP8, V-RST3: a line low for ever shows `0x00000041`; `rst` recovers. -/
theorem test_stuck_low : (after .init (script [ans false, ans false])).statusWord = 0x00000041#32
    ∧ (stepped { after .init (script [ans false, ans false]) with inputs := [.during (.rst 0)] }).statusWord = 0#32 := by
  decide +kernel
/-- V-RST2: `rst` 200 µs into the reset pulse. -/
theorem test_rst_in_pulse :
    let t := after .init (script [ans true, ans true, .during (.rst 200000), ans true])
    t.pinTrace = [.awaited, .low, .delay 200000] ∧ t.owDriveLow = false ∧ t.statusWord = 0#32 ∧ t.seq = .idle := by
  decide +kernel
/-- V-FSM4: writes while busy are ignored, a read shows `BUSY` alone. -/
theorem test_busy_host :
    let t := after .rbit (script ([ans true, .during (.write offAddrLo 0xDEADBEEF#32),
      .during (.write offCmd 0x000000CC#32), .during (.read offStatus)] ++ [ans true, ans true]))
    t.rdata = 0x00000001#32 ∧ t.addr = 0#64 ∧ t.cmd = 0x00000002#32 ∧ t.bit = true := by decide +kernel
/-- `withFetchWord` places the command the next step runs. -/
theorem test_withFetchWord :
    (stepped ({ State.reset with buf := bufOf image }.withFetchWord 32 0x00008008)).crc = 0x15#8 := by decide +kernel

/-! ## Data functions (V-CRC, L1-1, P-vectors) -/

theorem test_crc8 : crc8 (image.take 8) = 0x15#8 ∧ crc8 image = 0#8 ∧ crc8 [0x02#8] = 0xBC#8 ∧ crc8 [] = 0#8 := by
  decide +kernel
/-- L1-1: the remainder after each byte. -/
theorem test_crc8_steps : (List.range 9).map (fun n => crc8 (image.take n))
    = [0x00#8, 0x87#8, 0x51#8, 0xE3#8, 0x90#8, 0xA8#8, 0x58#8, 0xE4#8, 0x15#8] := by decide +kernel
/-- V-SR4: four slaves, every case of the tie-break. -/
theorem test_enumeration : busPasses [romX, romA, romB, romC] 4 0#64 = some ([romX, romB, romA, romC], 0#64) := by
  decide +kernel

/-! ## Witnesses: for each obligation with hypotheses, a state and operands that meet all of them

A script that rises after two low samples, with a device present, then 700 answers that alternate in no special way; and
the states the later witnesses share. -/

/-- The line low twice, then an initialization sequence with presence sample `p`. -/
def slowInit (p : Bool) : List Input := [ans false, ans false] ++ ansInit p
/-- A device present, then `n` high answers. -/
def present (n : Nat) : State := script (slowInit false ++ List.replicate n (ans true))

theorem witness_DecodeOfEncodeIsTheInstruction : (Instr.rbytes 9#4).wellFormed = true := by decide
theorem witness_EncodeOfDecodeIsTheWord : decode 0x00FF0005#32 = .ok (.wbyte 0xFF#8) := by decide
theorem witness_DecodeAgreesWithOperationMap : (⟨"RBYTES", 0x00000006#32, 0xFFFF0FFF#32⟩ : OpRow) ∈ opRows := by decide

/-- One word for each clause of R100. -/
theorem witness_IllegalWordsEndWithIllegalCommand :
    (∀ w ∈ [0x0000000A#32, 0x000000FF#32, 0x00000400#32, 0x00000800#32, 0x01000000#32, 0x80000000#32, 0x00000100#32,
        0x00001004#32, 0x00010044#32, 0x0000A006#32, 0x0000F009#32, 0x0000034E#32, 0x00020003#32, 0x00800003#32],
      illegalWord w)
      ∧ (script [.host (.write offCmd 0x0000000A#32)]).seq = .idle
      ∧ (script [.host (.write offCmd 0x0000000A#32)]).inputs = .host (.write offCmd 0x0000000A#32) :: [] := by
  unfold illegalWord; decide

theorem witness_StepRunsTheDecodedOperation :
    State.reset.seq = .idle ∧ decode 0x00009006#32 = .ok (.rbytes 9#4) ∧ (Instr.rbytes 9#4).wellFormed = true
      ∧ (script [.host (.write offCmd 0x00009006#32)]).inputs = .host (.write offCmd 0x00009006#32) :: []
      ∧ (script [.during (.write offCmd 0x00009006#32)]).inputs = .during (.write offCmd 0x00009006#32) :: [] := by decide

/-- An OWM in the copy delay, and one in a low phase, with one host event to come. -/
def holding (h : HostEvent) : State :=
  { script [.during h] with
      cmd := 0x00000048#32, seq := .hold, hid := { Hidden.reset with tmr := Config.tCopy } }
def driving (h : HostEvent) : State :=
  { script [.during h] with
      cmd := 0x00000002#32, seq := .rxData 0 0 .low, owDriveLow := true, hid := { Hidden.reset with tmr := 6000 } }

theorem witness_BusyOwmIgnoresHostWrites :
    (holding (.write offCmd 0#32)).seq.timed = true ∧ (driving (.write offBuf0 0#32)).seq.timed = true
      ∧ (holding (.write offCmd 0#32)).inputs = .during (.write offCmd 0#32) :: [] := by decide
theorem witness_WritesWhileBusyDoNotMatter :
    exec .rbit (script (.during (.write offData 1#32) :: ansRead true))
      = .next (after .rbit (script (.during (.write offData 1#32) :: ansRead true))) := exec_after _ _

theorem inv_holding (h : HostEvent) : (holding h).Inv := by
  have hd : decode 0x00000048#32 = .ok (.copySp .noAddr) := by decide
  refine ⟨⟨?_, ?_, ?_, ?_, ?_⟩, by simp [State.seqOk, holding, hd, Seq.legal], ?_, ?_⟩ <;> intro <;>
    simp_all [holding, script, State.reset]

theorem inv_driving (h : HostEvent) : (driving h).Inv := by
  have hd : decode 0x00000002#32 = .ok .rbit := by decide
  refine ⟨⟨?_, ?_, ?_, ?_, ?_⟩, by simp [State.seqOk, driving, hd, Seq.legal, payloadBytesOf],
    fun _ => .inl ⟨rfl, by simp [driving]⟩, ?_⟩ <;> intro <;> simp_all [driving, script, State.reset]

theorem witness_HostReadsHaveNoSideEffect :
    (script [.host (.read offStatus)]).busy = false
      ∧ (script [.host (.read offStatus)]).inputs = .host (.read offStatus) :: []
      ∧ (driving (.read offStatus)).seq.timed = true ∧ (driving (.read offStatus)).inputs = .during (.read offStatus) :: []
      ∧ (driving (.read offStatus)).Inv ∧ (driving (.read offStatus)).busy = true :=
  ⟨rfl, rfl, rfl, rfl, inv_driving _, rfl⟩
theorem witness_ResultsStayOldWhileBusy :
    (driving (.read offStatus)).busy = true ∧ step (driving (.read offStatus)) = .next (driving (.read offStatus)).tick
      ∧ (driving (.read offStatus)).tick.busy = true := ⟨rfl, step_of_busy rfl, by decide +kernel⟩
theorem witness_RstRestoresTheResetState :
    (script [.during (.rst 7)]).busy = false ∧ (script [.during (.rst 7)]).inputs = .during (.rst 7) :: []
      ∧ (script [.host (.rst 0)]).inputs = .host (.rst 0) :: []
      ∧ (driving (.rst 0)).seq.timed = true ∧ (driving (.rst 0)).inputs = .during (.rst 0) :: []
      ∧ (driving (.rst 7)).inputs = .during (.rst 7) :: [] := by decide
/-- Every writable offset and each read-only one; the unmapped offsets from the first to the last. -/
theorem witness_HostWritesStoreToTheirRegister :
    (∀ off ∈ [2#4, 4#4, 5#4, 6#4, 7#4, 8#4, 9#4, 10#4], off ≠ offCmd ∧ writable off = true)
      ∧ (∀ off ∈ [1#4, 3#4, 11#4, 15#4], off ≠ offCmd ∧ writable off = false)
      ∧ (∀ off ∈ [11#4, 15#4], 11 ≤ off.toNat)
      ∧ (script [.host (.write offData 0x1A5#32)]).busy = false
      ∧ (script [.host (.write offData 0x1A5#32)]).inputs = .host (.write offData 0x1A5#32) :: [] := by decide

theorem witness_StepKeepsTheInvariant :
    (driving (.rst 7)).Inv ∧ step (driving (.rst 7)) = .next (driving (.rst 7)).tick ∧ (holding (.rst 7)).Inv
      ∧ step (holding (.rst 7)) = .next (holding (.rst 7)).tick := ⟨inv_driving _, step_of_busy rfl, inv_holding _, step_of_busy rfl⟩

/-- READ_ROM with slave A: a new address. -/
def readA : State := script (ansInit false ++ ansTx ++ ansBytes (bytesOf romA))
theorem witness_AddressesWrittenPassTheirCheck :
    exec .readRom readA = .next (after .readRom readA) ∧ (after .readRom readA).addr ≠ readA.addr := by
  refine ⟨exec_after _ _, ?_⟩; decide +kernel
/-- `CRCCHK 1` on a byte 1. -/
def badBuf : State := { State.reset with buf := bufOf [0x01#8] }
theorem witness_FailedOperationChangesOnlyStatus :
    exec (.crcchk 1#4) badBuf = .next (after (.crcchk 1#4) badBuf) ∧ (after (.crcchk 1#4) badBuf).err = true := by
  refine ⟨exec_after _ _, ?_⟩; decide +kernel
theorem noRst_script_nil : (script []).noRst := by intro x hx; cases hx
theorem witness_OperationWritesOnlyItsOwnResults :
    (script []).noRst ∧ exec .nop (script []) = .next (after .nop (script []))
      ∧ (∀ i ∈ [Instr.nop], writesAddr i = false ∧ writesConflict i = false ∧ writesData i = false ∧ writesCrc i = false
          ∧ writesBuf i = false ∧ writesBit i = false ∧ writesRes i = false ∧ hasInitSeq i = false) :=
  ⟨noRst_script_nil, exec_after _ _, by decide⟩
theorem witness_ErrorsAreThoseOfTheTable :
    (Instr.crcchk 1#4).wellFormed = true ∧ exec (.crcchk 1#4) badBuf = .next (after (.crcchk 1#4) badBuf)
      ∧ (after (.crcchk 1#4) badBuf).err = true := by
  refine ⟨rfl, exec_after _ _, ?_⟩; decide +kernel
/-- `INIT` with no answer to come waits, `NOP` ends. -/
theorem witness_OperationEndsOrWaitsForTheLine :
    (script []).noRst ∧ exec .init (script []) = .next (after .init (script []))
      ∧ (after .init (script [])).seq = .waitHigh ∧ (after .nop (script [])).seq = .idle := by
  refine ⟨noRst_script_nil, exec_after _ _, ?_, ?_⟩ <;> decide +kernel
theorem witness_FaultedEventIsTheLastOne :
    (script [flt 0x07#8]).noRst ∧ exec .rbit (script [flt 0x07#8]) = .next (after .rbit (script [flt 0x07#8]))
      ∧ (after .rbit (script [flt 0x07#8])).ecode = 1#4
      ∧ (after .rbit (script [flt 0x07#8])).trace.head? = some (.faulted 0x07#8) := by
  refine ⟨?_, exec_after _ _, ?_, ?_⟩
  · intro x hx; simp [script, flt] at hx; subst hx; decide
  all_goals decide +kernel
/-- A read slot, and a recall that ends at its first poll. -/
theorem witness_SuccessLastsItsTime :
    (script (ansRead true)).noRst ∧ (after .rbit (script (ansRead true))).done = true
      ∧ (after .rbit (script (ansRead true))).err = false ∧ isRecall .rbit = false
      ∧ (script (ansTx ++ ansRead true)).noRst ∧ isRecall (.recallE2 .noAddr) = true
      ∧ (after (.recallE2 .noAddr) (script (ansTx ++ ansRead true))).done = true
      ∧ (after (.recallE2 .noAddr) (script (ansTx ++ ansRead true))).err = false := by
  unfold State.noRst; decide +kernel

/-! ### Completion -/

theorem witness_InitReportsPresence :
    (script (ansInit false)).quiet (initAnswers 0) ∧ (script (ansInit false)).risesAfter 0
      ∧ (script (slowInit true)).quiet (initAnswers 2) ∧ (script (slowInit true)).risesAfter 2 := by
  unfold State.quiet State.risesAfter; decide +kernel
theorem witness_BitOperationsAreOneSlot : (script (ansRead true)).quiet 3 ∧ (script ansWrite).quiet 2 := by
  unfold State.quiet; decide +kernel
theorem witness_ByteOperationsAreLsbFirst : (script (ansByte 0xA5#8)).quiet 24 ∧ (script ansTx).quiet 16 := by
  unfold State.quiet; decide +kernel
/-- The shortest and the longest transfer. -/
theorem witness_TransfersMoveAPrefixOfBuf :
    (9#4).toNat ≤ 9 ∧ (script (ansBytes image)).quiet (24 * (9#4).toNat)
      ∧ (present 200).quiet (16 * (9#4).toNat) ∧ (0#4).toNat ≤ 9 ∧ State.reset.quiet (24 * (0#4).toNat)
      ∧ State.reset.quiet (16 * (0#4).toNat) := by
  unfold State.quiet; decide +kernel
theorem witness_CrcOperationsWorkOnAPrefixOfBuf :
    (9#4).toNat ≤ 9 ∧ crc8 ((bufOf image).toList.take (9#4).toNat) = 0#8
      ∧ crc8 ((bufOf image).toList.take (8#4).toNat) ≠ 0#8 ∧ (0#4).toNat ≤ 9
      ∧ crc8 ((bufOf image).toList.take (0#4).toNat) = 0#8 := by decide +kernel
theorem witness_CountsOverNineAreIllegal :
    (Instr.rbytes 10#4).wellFormed = false ∧ (Instr.crcchk 15#4).wellFormed = false := by decide
/-- Both clauses: slave A; the AND of A and B (V-ROM2). -/
theorem witness_ReadRomReadsAnAddress :
    (∀ a ∈ [romA, 0x2000000000000028#64],
      (script (slowInit false ++ ansTx ++ ansBytes (bytesOf a))).quiet (initAnswers 2 + 16 + 192)
        ∧ (script (slowInit false ++ ansTx ++ ansBytes (bytesOf a))).risesAfter 2
        ∧ (script (slowInit false ++ ansTx ++ ansBytes (bytesOf a))).presenceAt 2 = false
        ∧ (script (slowInit false ++ ansTx ++ ansBytes (bytesOf a))).bytesAt (initAnswers 2 + 16) 8 = bytesOf a)
      ∧ crc8 (bytesOf romA) = 0#8 ∧ crc8 (bytesOf 0x2000000000000028#64) ≠ 0#8 := by
  refine ⟨fun a ha => ?_, by decide +kernel, by decide +kernel⟩
  simp only [List.mem_cons, List.not_mem_nil, or_false] at ha
  rcases ha with rfl | rfl <;> unfold State.quiet State.risesAfter <;> decide +kernel
theorem witness_MatchRomSendsTheAddress :
    crc8 (bytesOf { present 144 with addr := romA }.addr) = 0#8
      ∧ { present 144 with addr := romA }.quiet (initAnswers 2 + 16 + 128)
      ∧ { present 144 with addr := romA }.risesAfter 2 ∧ { present 144 with addr := romA }.presenceAt 2 = false := by
  unfold State.quiet State.risesAfter; decide +kernel
theorem witness_SkipRomSendsOneByte :
    (present 16).quiet (initAnswers 2 + 16) ∧ (present 16).risesAfter 2 ∧ (present 16).presenceAt 2 = false := by
  unfold State.quiet State.risesAfter; decide +kernel
/-- A pass that reads slave A; and a pass that reads A with bit 63 flipped (V-CRC16). -/
def passOf (a : Word64) (c : List Nat) : State := script (slowInit false ++ ansTx ++ ansTriplets a c)
theorem witness_SearchPassDeliversItsAddress :
    (∀ a ∈ [romA, 0xA900000000000128#64], (passOf a []).quiet (initAnswers 2 + 16 + 512) ∧ (passOf a []).risesAfter 2
        ∧ (passOf a []).presenceAt 2 = false
        ∧ searchPass (passOf a []).conflict ((passOf a []).readsAt (initAnswers 2 + 16)) = some (a, 0#64))
      ∧ crc8 (bytesOf romA) = 0#8 ∧ crc8 (bytesOf 0xA900000000000128#64) ≠ 0#8 := by
  refine ⟨fun a ha => ?_, by decide +kernel, by decide +kernel⟩
  simp only [List.mem_cons, List.not_mem_nil, or_false] at ha
  rcases ha with rfl | rfl <;> unfold State.quiet State.risesAfter <;> decide +kernel
/-- Nobody answers at position 0; the last slave leaves before position 63. -/
theorem witness_SearchWithNobodyAnsweringFails :
    ((present 22).quiet (initAnswers 2 + 16 + 8 * 0 + 6) ∧ (present 22).risesAfter 2 ∧ (present 22).presenceAt 2 = false
        ∧ (present 22).readsAt (initAnswers 2 + 16) 0 = (true, true))
      ∧ let s := script (slowInit false ++ ansTx ++ (ansTriplets romA []).take 504 ++ ansRead true ++ ansRead true)
        s.quiet (initAnswers 2 + 16 + 8 * 63 + 6) ∧ s.risesAfter 2 ∧ s.presenceAt 2 = false
          ∧ (∀ j, j < 63 → s.readsAt (initAnswers 2 + 16) j ≠ (true, true))
          ∧ s.readsAt (initAnswers 2 + 16) 63 = (true, true) := by
  unfold State.quiet State.risesAfter; decide +kernel
/-- A state in which every address mode succeeds, whatever follows. -/
def ready (l : List Input) : State := { script l with addr := romA }
/-- The answers of the addressing step. -/
def ansAddr : AddrMode → List Input
  | .noAddr => []
  | .skipAddr => slowInit false ++ ansTx
  | .matchAddr => slowInit false ++ List.replicate 144 (ans true)
theorem witness_ConvertAndCopySendTheirByte :
    ∀ am ∈ [AddrMode.noAddr, .skipAddr, .matchAddr], (ready (ansAddr am ++ ansTx)).addressable am 2
      ∧ (ready (ansAddr am ++ ansTx)).quiet (addrAnswers am 2 + 16) := by
  intro am ham
  simp only [List.mem_cons, List.not_mem_nil, or_false] at ham
  rcases ham with rfl | rfl | rfl <;> unfold State.quiet State.addressable <;> (try unfold State.risesAfter) <;>
    decide +kernel
theorem witness_ReadPowerSamplesOneSlot :
    (ready (ansAddr .skipAddr ++ ansTx ++ ansRead true)).addressable .skipAddr 2
      ∧ (ready (ansAddr .skipAddr ++ ansTx ++ ansRead true)).quiet (addrAnswers .skipAddr 2 + 16 + 3) := by
  unfold State.quiet State.addressable State.risesAfter; decide +kernel
/-- Success at the first poll and at the last one. -/
theorem witness_RecallEndsAtTheFirstReadyPoll :
    ∀ p ∈ [0, 142],
      let s := ready (ansTx ++ List.replicate (3 * p) (ans false) ++ ansRead true)
      s.addressable .noAddr 0 ∧ p < 143 ∧ s.quiet (addrAnswers .noAddr 0 + 16 + 3 * (p + 1))
        ∧ (∀ k, k < p → s.readAt (addrAnswers .noAddr 0 + 16 + 3 * k) = false)
        ∧ s.readAt (addrAnswers .noAddr 0 + 16 + 3 * p) = true := by
  unfold State.quiet State.addressable; decide +kernel
theorem witness_RecallTimesOutAfter143Polls :
    let s := ready (ansTx ++ List.replicate 429 (ans false))
    s.addressable .noAddr 0 ∧ s.quiet (addrAnswers .noAddr 0 + 16 + 429)
      ∧ ∀ k, k < 143 → s.readAt (addrAnswers .noAddr 0 + 16 + 3 * k) = false := by
  unfold State.quiet State.addressable; decide +kernel
/-- The three clauses: the image V-SP1, the image of V-FN9, nine zeros. -/
theorem witness_ReadSpValidatesTheScratchpad :
    (∀ b ∈ [bufOf image, bufOf (image.take 8 ++ [0x14#8]), bufOf []],
      (ready (ansTx ++ ansBytes b.toList)).addressable .noAddr 0
        ∧ (ready (ansTx ++ ansBytes b.toList)).quiet (addrAnswers .noAddr 0 + 16 + 216)
        ∧ (ready (ansTx ++ ansBytes b.toList)).bytesAt (addrAnswers .noAddr 0 + 16) 9 = b.toList)
      ∧ crc8 (bufOf image).toList = 0#8 ∧ (bufOf image)[4] = configByte 3#2
      ∧ crc8 (bufOf (image.take 8 ++ [0x14#8])).toList ≠ 0#8
      ∧ crc8 (bufOf []).toList = 0#8 ∧ ∀ idx, (bufOf [])[4] ≠ configByte idx := by
  refine ⟨fun b hb => ?_, by decide +kernel, by decide +kernel, by decide +kernel, by decide +kernel, by decide +kernel⟩
  simp only [List.mem_cons, List.not_mem_nil, or_false] at hb
  rcases hb with rfl | rfl | rfl <;> unfold State.quiet State.addressable <;> decide +kernel
theorem witness_WriteSpSendsThreeBytes :
    let s := { ready (ansTx ++ List.replicate 48 (ans true)) with buf := bufOf image }
    s.addressable .noAddr 0 ∧ s.buf[4] = configByte 3#2 ∧ s.quiet (addrAnswers .noAddr 0 + 16 + 48) := by
  unfold State.quiet State.addressable; decide +kernel

/-! ### Errors -/

theorem witness_AbsentBusEndsWithNoDevice :
    let s := { script (slowInit true) with addr := romA, buf := bufOf image }
    hasInitSeq (.writeSp .matchAddr) = true ∧ (Instr.writeSp .matchAddr) ≠ .init ∧ crc8 (bytesOf s.addr) = 0#8
      ∧ s.buf[4] = configByte 3#2 ∧ s.quiet (initAnswers 2) ∧ s.risesAfter 2 ∧ s.presenceAt 2 = true := by
  unfold State.quiet State.risesAfter; decide +kernel
/-- Each check fails; with `MATCH` the second one after the first has passed. -/
theorem witness_OperandChecksComeFirst :
    checksAddr .matchRom = true ∧ crc8 (bytesOf { State.reset with addr := 1#64 }.addr) ≠ 0#8
      ∧ checksConfig (.writeSp .matchAddr) = true ∧ checksAddr (.writeSp .matchAddr) = true
      ∧ crc8 (bytesOf State.reset.addr) = 0#8 ∧ ∀ idx, State.reset.buf[4] ≠ configByte idx := by
  decide +kernel
theorem witness_PinFaultAtTheFirstLookEndsTheOperation :
    let s := { script [flt 0x80#8] with buf := bufOf image }
    (Instr.writeSp .matchAddr).wellFormed = true ∧ hasPinEvent (.writeSp .matchAddr) = true
      ∧ crc8 (bytesOf s.addr) = 0#8 ∧ s.buf[4] = configByte 3#2
      ∧ s.inputs = .pins ⟨true, true, 0x80#8⟩ :: [] := by
  decide +kernel
theorem witness_StuckLowLineKeepsOwmWaiting :
    hasInitSeq .init = true ∧ checksAddr .init = false ∧ checksConfig .init = false
      ∧ ∀ x ∈ (script [ans false, ans false]).inputs, ∃ c, x = .pins ⟨false, false, c⟩ := by
  refine ⟨rfl, rfl, rfl, ?_⟩
  intro x hx
  simp [script, ans] at hx
  exact ⟨_, hx⟩
/-- A faulted look at each of the four kinds of pin event. -/
theorem witness_PinFaultAbortsInAnyPhase :
    (∀ q ∈ [Seq.waitHigh, .rst .low, .txCmd 7 .tail, .srch 63 .wb .tail, .poll 143 .rel, .rst .sample],
      State.pinEventDue { script [flt 0x80#8] with cmd := 0x000001B8#32, seq := q })
      ∧ decode 0x000001B8#32 = .ok (.recallE2 .skipAddr)
      ∧ (script [flt 0x80#8]).inputs = .pins ⟨true, true, 0x80#8⟩ :: [] := by
  unfold State.pinEventDue; decide +kernel

/-! ### Data functions, the search, the sequencer -/

theorem witness_EverySlotLastsTheSame :
    Profile.std.wellFormed = true ∧ (script (ansRead true)).quiet 3 ∧ (script ansWrite).quiet 2 := by
  unfold State.quiet; decide +kernel
theorem witness_ConfigBytesRoundTrip : configIndex 0x5F#8 = some 2#2 := by decide
theorem witness_CrcPropertiesOfR161 : 7 < 8 := by decide
theorem witness_AddressBytesRoundTrip : (bytesOf romA).length = 8 ∧ 7 < (bytesOf romA).length ∧ 7 < 8 := by decide
/-- Each case of R188 at a boundary: below the turning point, at it, above it, no turning point, no conflict. -/
theorem witness_TieBreakFollowsTheFourCases :
    highestSet 0x8000000000000000#64 = some 63 ∧ 62 < 63 ∧ highestSet 1#64 = some 0 ∧ 0 < 63 ∧ highestSet 0#64 = none
      ∧ (true || false) = true ∧ (highestSet 1#64 ≠ some 63) := by decide
theorem witness_StuckZeroLineFillsTheMask :
    let s := script (ans true :: List.replicate 531 (ans false))
    s.conflict = 0#64 ∧ s.quiet (initAnswers 0 + 16 + 512) ∧ s.risesAfter 0
      ∧ ∀ k, 0 < k → k < initAnswers 0 + 16 + 512 → s.level k = false := by
  refine ⟨rfl, by unfold State.quiet; decide +kernel, by unfold State.risesAfter; decide +kernel, ?_⟩
  intro k h0 h1
  obtain ⟨j, rfl⟩ : ∃ j, k = j + 1 := ⟨k - 1, by omega⟩
  have hj : j < 531 := by simp only [initAnswers] at h1; omega
  have hl : (script (ans true :: List.replicate 531 (ans false))).inputs[j + 1]? = some (ans false) := by
    simp only [script, List.getElem?_cons_succ, List.getElem?_replicate, if_pos hj]
  rw [State.level, hl]; rfl
/-- Slaves A and X, the pass that turns at position 8 (V-SR3, pass 2). -/
theorem witness_PassOnABusDeliversASlave :
    let s := { passOf romA [8] with conflict := 0x100#64 }
    busPass [romA, romX] s.conflict = some (romA, 0#64) ∧ crc8 (bytesOf romA) = 0#8
      ∧ s.quiet (initAnswers 2 + 16 + 512) ∧ s.risesAfter 2 ∧ s.presenceAt 2 = false
      ∧ ∀ i, i < 64 → s.readsAt (initAnswers 2 + 16) i = busReads (takingPart [romA, romX] romA i) i := by
  unfold State.quiet State.risesAfter; decide +kernel
theorem witness_EnumerationFindsEverySlaveOnce : [romA, romB, romC] ≠ [] ∧ [romA, romB, romC].Nodup := by decide
theorem witness_OperationIsTheRunOfItsEvents :
    Instr.readRom.wellFormed = true ∧ exec .readRom readA = .next (after .readRom readA) :=
  ⟨rfl, exec_after _ _⟩
theorem witness_BusyOwmEndsOrWaits : (driving (.rst 7)).Inv ∧ (driving (.rst 7)).busy = true := ⟨inv_driving _, rfl⟩
/-- `READ_POWER skip` beside `SKIP_ROM` and `READ_POWER none`. -/
theorem witness_AddressModeIsTheAddressingOperationFirst :
    let s := ready (ansAddr .skipAddr ++ ansTx ++ ansRead true)
    let t := after .skipRom s
    Instr.readPower ∈ [Instr.convertT, Instr.recallE2, Instr.readPower, Instr.copySp, Instr.readSp, Instr.writeSp]
      ∧ checksConfig (.readPower .skipAddr) = false ∧ (∀ x ∈ s.inputs, x.isDuring = false)
      ∧ exec .skipRom s = .next t ∧ t.done = true ∧ t.err = false ∧ t.freeIx = s.freeIx + 1
      ∧ exec (.readPower .noAddr) t = .next (after (.readPower .noAddr) t)
      ∧ (after (.readPower .noAddr) t).freeIx = s.freeIx + 2 := by
  refine ⟨by simp, rfl, ?_, exec_after _ _, ?_, ?_, ?_, exec_after _ _, ?_⟩ <;> decide +kernel

/-- A sample after one low look, then 200 µs of the pulse; with no check, with one and with both. -/
def cutShort : State := { script [ans false, ans true, ans true, .during (.rst 200000), ans true] with
  addr := romA, buf := bufOf image }
theorem witness_RstInTheResetPulseShowsTheTraceSoFar :
    (∀ i ∈ [Instr.init, .matchRom, .writeSp .matchAddr], hasInitSeq i = true)
      ∧ crc8 (bytesOf cutShort.addr) = 0#8 ∧ cutShort.buf[4] = configByte 3#2
      ∧ cutShort.inputs = [ans false, ans true, ans true] ++ .during (.rst 200000) :: [ans true]
      ∧ (∀ x ∈ [ans false, ans true, ans true], x.clean = true) ∧ cutShort.risesAfter 1 := by
  unfold State.risesAfter; decide +kernel

end Sys2Proof.Tests
end

/-! ## An address and its bytes (R8, R62) -/

namespace Sys2Proof.Machine

theorem bytesOf_getElem (a : Word64) (k : Nat) (hk : k < (bytesOf a).length) :
    (bytesOf a)[k] = a.extractLsb' (8 * k) 8 := by
  match k, hk with
  | 0, _ | 1, _ | 2, _ | 3, _ | 4, _ | 5, _ | 6, _ | 7, _ => rfl

/-- Bit `j` of byte `k` is bit `8k+j` of the address. -/
theorem bytesOf_getElem_getLsbD (a : Word64) (k j : Nat) (hk : k < (bytesOf a).length) (hj : j < 8) :
    ((bytesOf a)[k]).getLsbD j = a.getLsbD (8 * k + j) := by
  simp [bytesOf_getElem, hj]

/-- Bit `i` of an assembled address is bit `i % 8` of byte `i / 8`. -/
theorem getLsbD_addrOfBytes (l : List Byte) (i : Nat) (hi : i < 64) :
    (addrOfBytes l).getLsbD i = (l.getD (i / 8) 0#8).getLsbD (i % 8) := by
  induction l generalizing i with
  | nil => simp [addrOfBytes]
  | cons b r ih =>
    by_cases h8 : i < 8
    · simp [addrOfBytes, hi, h8, Nat.div_eq_of_lt h8, Nat.mod_eq_of_lt h8]
    · obtain ⟨k, rfl⟩ : ∃ k, i = k + 8 := ⟨i - 8, by omega⟩
      rw [addrOfBytes, BitVec.getLsbD_or, BitVec.getLsbD_setWidth, BitVec.getLsbD_shiftLeft, Nat.add_sub_cancel,
        ih k (by omega)]
      simp [hi]

theorem addrOfBytes_bytesOf (a : Word64) : addrOfBytes (bytesOf a) = a := by
  apply BitVec.eq_of_getLsbD_eq
  intro i hi
  have hk : i / 8 < (bytesOf a).length := by simp only [bytesOf, List.length_cons, List.length_nil]; omega
  rw [getLsbD_addrOfBytes _ i hi, List.getD_eq_getElem _ _ hk,
    bytesOf_getElem_getLsbD a _ _ hk (Nat.mod_lt i (by decide)), Nat.div_add_mod]

theorem bytesOf_addrOfBytes (l : List Byte) (hl : l.length = 8) : bytesOf (addrOfBytes l) = l := by
  refine List.ext_getElem hl.symm fun k hk hk' => BitVec.eq_of_getLsbD_eq fun j hj => ?_
  have hdiv : (8 * k + j) / 8 = k := by omega
  have hmod : (8 * k + j) % 8 = j := by omega
  rw [bytesOf_getElem_getLsbD _ k j hk hj, getLsbD_addrOfBytes l _ (by omega), hdiv, hmod,
    List.getD_eq_getElem _ _ hk']

/-- Settles O50: both round trips, compared bit by bit. -/
theorem addressBytesRoundTrip : Obligations.AddressBytesRoundTrip :=
  ⟨addrOfBytes_bytesOf, bytesOf_addrOfBytes, bytesOf_getElem_getLsbD⟩

end Sys2Proof.Machine

/-! ## The duration of a trace, and of a slot on a quiet line (R10, R130) -/

namespace Sys2Proof.Machine

@[simp] theorem duration_nil : duration [] = 0 := rfl

@[simp] theorem duration_cons (e : PinEvent) (l : List PinEvent) : duration (e :: l) = e.time + duration l := by
  simp [duration]

@[simp] theorem duration_append (l r : List PinEvent) : duration (l ++ r) = duration l + duration r := by
  simp [duration]

@[simp] theorem duration_reverse (l : List PinEvent) : duration l.reverse = duration l := by
  simp [duration, List.sum_reverse]

theorem duration_ran (s : State) (n : Nat) (tr : List PinEvent) :
    duration (s.ran n tr).trace = duration s.trace + duration tr := by
  simp [State.ran, Nat.add_comm]

/-- R6: the three sums of `SLOT` agree. -/
theorem slot_of_wellFormed {P : Profile} (hP : P.wellFormed = true) :
    P.C + P.D = P.slot ∧ P.A + P.E + P.F = P.slot := by
  obtain ⟨-, -, -, -, -, -, -, -, -, hwrite, hread⟩ := of_decide_eq_true hP
  exact ⟨hwrite.symm, hread.symm⟩

/-- R6, R124: a read slot takes `SLOT`, whatever it samples. -/
theorem duration_readSlotTrace {P : Profile} (hP : P.wellFormed = true) (b : Bool) :
    duration (readSlotTrace P b) = P.slot := by
  simp [readSlotTrace, PinEvent.time, ← (slot_of_wellFormed hP).2, Nat.add_assoc]

/-- R6, R125: a write slot takes `SLOT`, whatever it sends. -/
theorem duration_writeSlotTrace {P : Profile} (hP : P.wellFormed = true) (b : Bool) :
    duration (writeSlotTrace P b) = P.slot := by
  cases b
  · simp [writeSlotTrace, PinEvent.time, ← (slot_of_wellFormed hP).1]
  · simp [writeSlotTrace, PinEvent.time, Profile.slot]

/-- Settles O52: the slot's state on a quiet line, and R6's sums. -/
theorem everySlotLastsTheSame : Obligations.EverySlotLastsTheSame := fun P hP =>
  ⟨fun _ hq => ⟨_, _, readBit_quiet P hq, by rw [duration_ran, duration_readSlotTrace hP]⟩,
   fun _ b hq => ⟨_, writeBit_quiet P b hq, by rw [duration_ran, duration_writeSlotTrace hP]⟩⟩

end Sys2Proof.Machine

/-! ## How long a procedure takes (R310)

One lemma per procedure, by composition: a procedure that returns has added one of the durations `D` to the trace. How
the other ends leave `DONE` is carried along: only a success shows `DONE` without `ERR` at the end of an operation. -/

namespace Sys2Proof.Machine

/-- How a run that started in `s` ended: returned after one of the durations `D`, with `DONE` as before; waiting, with
`DONE` as before; abandoned, with `DONE` cleared; or with an error. -/
def EndsAfter {α : Type} (D : Set Nat) (s : State) : EStateM.Result Stop State α → Prop
  | .ok _ t => t.done = s.done ∧ ∃ d ∈ D, duration t.trace = duration s.trace + d
  | .error .waiting t => t.done = s.done
  | .error .rst t => t.done = false
  | .error (.raised _) _ => True

/-- Wherever the procedure starts, it takes one of the durations `D` if it returns. -/
def Lasts {α : Type} (D : Set Nat) (x : Op α) : Prop := ∀ s, EndsAfter D s (x s)

/-- What neither writes `DONE` nor takes time. -/
structure Instant (s t : State) : Prop where
  done : t.done = s.done
  time : duration t.trace = duration s.trace

theorem EndsAfter.of_instant {α : Type} {D : Set Nat} {s t : State} {r : EStateM.Result Stop State α}
    (h : Instant s t) (hr : EndsAfter D t r) : EndsAfter D s r := by
  match r with
  | .ok _ u =>
    obtain ⟨hdone, htime⟩ := hr
    exact ⟨hdone.trans h.done, h.time ▸ htime⟩
  | .error .waiting u => exact Eq.trans hr h.done
  | .error .rst u => exact hr
  | .error (.raised _) u => trivial

/-- An early end says nothing of the durations, and nothing of the value. -/
theorem EndsAfter.error {α β : Type} {D E : Set Nat} {s t : State} {e : Stop}
    (h : EndsAfter D s (.error e t : EStateM.Result Stop State α)) :
    EndsAfter E s (.error e t : EStateM.Result Stop State β) := by
  cases e with
  | raised e => trivial
  | waiting => exact h
  | rst => exact h

section Compose

variable {α β : Type} {D : Set Nat} {m n : Nat}

theorem Instant.endsAfter {s t : State} (h : Instant s t) (a : α) : EndsAfter {0} s (.ok a t) :=
  ⟨h.done, 0, rfl, h.time⟩

theorem Lasts.pure (a : α) : Lasts {0} (pure a : Op α) := fun _ => Instant.endsAfter ⟨rfl, rfl⟩ a

theorem Lasts.raise (e : OpError) : Lasts D (raise e : Op α) := fun _ => trivial

theorem Lasts.modify {f : State → State} (hf : ∀ s, Instant s (f s)) : Lasts {0} (modify f : Op Unit) :=
  fun s => (hf s).endsAfter ()

theorem Lasts.mono {E : Set Nat} {x : Op α} (hx : Lasts D x) (hDE : D ⊆ E) : Lasts E x := by
  intro s
  have h := hx s
  match hs : x s with
  | .ok a t =>
    rw [hs] at h
    obtain ⟨hdone, d, hd, htime⟩ := h
    exact ⟨hdone, d, hDE hd, htime⟩
  | .error e t => rw [hs] at h; exact h.error

/-- A procedure of one duration, then one of several. -/
theorem Lasts.bind_image {x : Op α} {f : α → Op β} (hx : Lasts {m} x) (hf : ∀ a, Lasts D (f a)) :
    Lasts ((m + ·) '' D) (x >>= f) := by
  intro s
  have h := hx s
  match hs : x s with
  | .error e t =>
    rw [op_bind_error hs]
    rw [hs] at h
    exact h.error
  | .ok a t =>
    rw [op_bind_ok hs]
    rw [hs] at h
    obtain ⟨hdone, _, rfl, htime⟩ := h
    have hrest := hf a t
    match hu : f a t with
    | .ok b u =>
      rw [hu] at hrest
      obtain ⟨hdone', d, hd, htime'⟩ := hrest
      exact ⟨hdone'.trans hdone, _, ⟨d, hd, rfl⟩, by rw [htime', htime, Nat.add_assoc]⟩
    | .error .waiting u => rw [hu] at hrest; exact Eq.trans hrest hdone
    | .error .rst u => rw [hu] at hrest; exact hrest
    | .error (.raised _) u => trivial

theorem Lasts.bind {x : Op α} {f : α → Op β} (hx : Lasts {m} x) (hf : ∀ a, Lasts {n} (f a)) :
    Lasts {m + n} (x >>= f) := by
  simpa using Lasts.bind_image hx hf

/-- A procedure that takes no time, then any. -/
theorem Lasts.bind_instant {x : Op α} {f : α → Op β} (hx : Lasts {0} x) (hf : ∀ a, Lasts D (f a)) :
    Lasts D (x >>= f) := by
  simpa using Lasts.bind_image hx hf

theorem Lasts.get_bind {f : State → Op β} (hf : ∀ s, Lasts D (f s)) : Lasts D (get >>= f) :=
  Lasts.bind_instant (fun _ => Instant.endsAfter ⟨rfl, rfl⟩ _) hf

theorem Lasts.congr {x : Op α} (hx : Lasts {m} x) (h : m = n) : Lasts {n} x := h ▸ hx

end Compose

/-! ### Pin events and delays -/

/-- Host events during an operation take no time. -/
theorem settleFrom_endsAfter (left : Nat) (l : List Input) (s : State) : EndsAfter {0} s (settleFrom left l s) := by
  induction l generalizing s with
  | nil => exact Instant.endsAfter ⟨rfl, rfl⟩ ()
  | cons x rest ih =>
    match x with
    | .pins p => exact Instant.endsAfter ⟨rfl, rfl⟩ ()
    | .host h => exact Instant.endsAfter ⟨rfl, rfl⟩ ()
    | .during (.rst t) => exact State.abandon_done left t _
    | .during (.write off d) => exact EndsAfter.of_instant ⟨rfl, rfl⟩ (ih { s with inputs := rest })
    | .during (.read off) => exact EndsAfter.of_instant ⟨rfl, rfl⟩ (ih ({ s with inputs := rest }.readReg off))

theorem settle_lasts (left : Nat) : Lasts {0} (settle left) := fun s => settleFrom_endsAfter left s.inputs s

theorem look_instant (s : State) : Instant s s.look.2 := by
  unfold State.look
  split <;> exact ⟨rfl, rfl⟩

theorem emit_instant {e : PinEvent} (he : e.time = 0) (s : State) : Instant s (s.emit e) := ⟨rfl, by simp [he]⟩

theorem pinEvent_lasts {act : Bool → State → State} (hact : ∀ b s, Instant s (act b s)) :
    Lasts {0} (pinEvent act) := by
  intro s
  have h := settle_lasts 0 s
  unfold pinEvent
  match hs : settle 0 s with
  | .error e t => rw [hs] at h; exact h.error
  | .ok _ t =>
    rw [hs] at h
    obtain ⟨hdone, _, rfl, htime⟩ := h
    refine EndsAfter.of_instant ⟨hdone, htime⟩ (EndsAfter.of_instant (look_instant t) ?_)
    by_cases hp : t.look.1.pinFault = true
    · simp only [hp, if_true]
      trivial
    · simp only [hp]
      exact (hact _ _).endsAfter _

theorem pinLow_lasts : Lasts {0} pinLow :=
  Lasts.bind_instant (pinEvent_lasts fun _ _ => ⟨rfl, by simp [PinEvent.time]⟩) fun _ => Lasts.pure _

theorem pinRelease_lasts : Lasts {0} pinRelease :=
  Lasts.bind_instant (pinEvent_lasts fun _ _ => ⟨rfl, by simp [PinEvent.time]⟩) fun _ => Lasts.pure _

theorem pinSample_lasts : Lasts {0} pinSample := pinEvent_lasts fun _ => emit_instant rfl

theorem delay_lasts (t : Nat) : Lasts {t} (delay t) :=
  Lasts.bind_instant (settle_lasts t) fun _ s => ⟨rfl, t, rfl, by simp [PinEvent.time, Nat.add_comm]⟩

/-- R310 counts from the end of `AwaitHigh`: the wait is not in the trace. -/
theorem awaitFrom_endsAfter (l : List Input) (s : State) : EndsAfter {0} s (awaitFrom l s) := by
  induction l generalizing s with
  | nil => exact Eq.refl s.done
  | cons x rest ih =>
    match x with
    | .host h => exact Eq.refl s.done
    | .during (.rst t) => exact State.abandon_done 0 t _
    | .during (.write off d) => exact EndsAfter.of_instant ⟨rfl, rfl⟩ (ih { s with inputs := rest })
    | .during (.read off) => exact EndsAfter.of_instant ⟨rfl, rfl⟩ (ih ({ s with inputs := rest }.readReg off))
    | .pins p =>
      unfold awaitFrom
      by_cases hp : p.pinFault = true
      · simp only [hp, if_true]
        trivial
      · by_cases hl : p.owIn = true
        · simp only [hp, hl, if_true]
          exact Instant.endsAfter (emit_instant rfl s) ()
        · simp only [hp, hl]
          exact EndsAfter.of_instant ⟨rfl, rfl⟩ (ih { s with inputs := rest })

theorem awaitHigh_lasts : Lasts {0} awaitHigh := fun s =>
  EndsAfter.of_instant (t := { s with seq := .waitHigh }) ⟨rfl, rfl⟩ (awaitFrom_endsAfter s.inputs _)

/-! ### The timing primitives and the codec -/

/-- R122: `H + I + J`. -/
theorem initSeq_lasts (P : Profile) : Lasts {P.H + (P.I + P.J)} (initSeq P) :=
  Lasts.bind_instant awaitHigh_lasts fun _ => Lasts.bind_instant pinLow_lasts fun _ =>
  Lasts.bind (delay_lasts P.H) fun _ => Lasts.bind_instant pinRelease_lasts fun _ =>
  Lasts.bind (delay_lasts P.I) fun _ => Lasts.bind_instant pinSample_lasts fun _ =>
  Lasts.bind_instant (Lasts.modify fun _ => ⟨rfl, rfl⟩) fun _ => Lasts.bind (delay_lasts P.J) fun _ => Lasts.pure _

/-- R124: `A + E + F`. -/
theorem readBit_lasts (P : Profile) : Lasts {P.A + (P.E + P.F)} (readBit P) :=
  Lasts.bind_instant pinLow_lasts fun _ => Lasts.bind (delay_lasts P.A) fun _ =>
  Lasts.bind_instant pinRelease_lasts fun _ => Lasts.bind (delay_lasts P.E) fun _ =>
  Lasts.bind_instant pinSample_lasts fun _ => Lasts.bind (delay_lasts P.F) fun _ => Lasts.pure _

theorem writeBit_lasts (P : Profile) (b : Bool) : Lasts {writeLow P b + writeHigh P b} (writeBit P b) :=
  Lasts.bind_instant pinLow_lasts fun _ => Lasts.bind (delay_lasts _) fun _ =>
  Lasts.bind_instant pinRelease_lasts fun _ => delay_lasts _

theorem initSeq_std_lasts : Lasts {960000} (initSeq Config.profile) := initSeq_lasts _

theorem readBit_std_lasts : Lasts {70000} (readBit Config.profile) := readBit_lasts _

theorem writeBit_std_lasts (b : Bool) : Lasts {70000} (writeBit Config.profile b) :=
  (writeBit_lasts _ b).congr (by cases b <;> rfl)

theorem readBits_lasts (n : Nat) (acc : Byte) : Lasts {70000 * n} (readBits n acc) := by
  induction n generalizing acc with
  | zero => exact Lasts.pure _
  | succ n ih => exact (Lasts.bind readBit_std_lasts fun _ => ih _).congr (by omega)

theorem readByte_lasts : Lasts {560000} readByte := readBits_lasts 8 0#8

theorem writeBits_lasts (l : List Bool) : Lasts {70000 * l.length} (writeBits l) := by
  induction l with
  | nil => exact Lasts.pure _
  | cons b r ih => exact (Lasts.bind (writeBit_std_lasts b) fun _ => ih).congr (by rw [List.length_cons]; omega)

theorem writeByte_lasts (v : Byte) : Lasts {560000} (writeByte v) := writeBits_lasts (bitsOf v)

theorem busRead_lasts (n : Nat) : Lasts {560000 * n} (busRead n) := by
  induction n with
  | zero => exact Lasts.pure _
  | succ n ih =>
    exact (Lasts.bind readByte_lasts fun _ => Lasts.bind ih fun _ => Lasts.pure _).congr (by omega)

theorem busWrite_lasts (l : List Byte) : Lasts {560000 * l.length} (busWrite l) := by
  induction l with
  | nil => exact Lasts.pure _
  | cons v r ih => exact (Lasts.bind (writeByte_lasts v) fun _ => ih).congr (by rw [List.length_cons]; omega)

/-! ### Checks, addressing, search, function commands -/

theorem checkCrc_lasts (data : List Byte) : Lasts {0} (checkCrc data) := by
  unfold checkCrc
  split
  · exact Lasts.pure _
  · exact Lasts.raise _

theorem validateConfig_lasts (v : Byte) : Lasts {0} (validateConfig v) := by
  unfold validateConfig
  split
  · exact Lasts.pure _
  · exact Lasts.raise _

theorem checkAddr_lasts : Lasts {0} checkAddr := Lasts.get_bind fun _ => checkCrc_lasts _

theorem prologue_lasts : Lasts {960000} prologue :=
  Lasts.bind (n := 0) initSeq_std_lasts fun p => by
    cases p
    · exact Lasts.raise _
    · exact Lasts.pure _

theorem skipStep_lasts : Lasts {1520000} skipStep := Lasts.bind prologue_lasts fun _ => writeByte_lasts _

theorem matchStep_lasts : Lasts {6000000} matchStep :=
  Lasts.bind (n := 5040000) prologue_lasts fun _ => Lasts.bind (n := 4480000) (writeByte_lasts _) fun _ =>
  Lasts.get_bind fun s => busWrite_lasts (bytesOf s.addr)

/-- R190: a triplet is three slots. -/
theorem searchFrom_lasts (m : Word64) (last : Option Nat) (n i : Nat) (a wmask : Word64) :
    Lasts {210000 * n} (searchFrom m last n i a wmask) := by
  induction n generalizing i a wmask with
  | zero => exact Lasts.pure _
  | succ n ih =>
    have hslots : 70000 + (70000 + (70000 + 210000 * n)) = 210000 * (n + 1) := by omega
    refine Lasts.congr (Lasts.bind readBit_std_lasts fun r1 => Lasts.bind readBit_std_lasts fun r2 => ?_) hslots
    split
    · exact Lasts.raise _
    · exact Lasts.bind (writeBit_std_lasts _) fun _ => ih _ _ _

/-- R190, R191: the prologue, the command byte and 64 triplets. -/
theorem searchBody_lasts (cmdByte : Byte) : Lasts {14960000} (searchBody cmdByte) :=
  Lasts.bind_instant (Lasts.modify fun _ => ⟨rfl, rfl⟩) fun _ => Lasts.get_bind fun _ =>
  Lasts.congr (Lasts.bind prologue_lasts fun _ => Lasts.bind (writeByte_lasts _) fun _ =>
    Lasts.bind (searchFrom_lasts _ _ 64 _ _ _) fun r => Lasts.bind_instant (checkCrc_lasts _) fun _ =>
    Lasts.modify (f := State.commitSearch r.1 r.2) fun _ => ⟨rfl, rfl⟩) rfl

theorem addrOperandCheck_lasts (am : AddrMode) : Lasts {0} (addrOperandCheck am) := by
  cases am with
  | noAddr => exact Lasts.pure _
  | skipAddr => exact Lasts.pure _
  | matchAddr => exact checkAddr_lasts

theorem addressing_lasts (am : AddrMode) : Lasts {prefixTime am} (addressing am) := by
  cases am with
  | noAddr => exact Lasts.pure _
  | skipAddr => exact skipStep_lasts
  | matchAddr => exact matchStep_lasts

theorem functionFrame_image_lasts (am : AddrMode) {check body : Op Unit} (c : Byte) {D : Set Nat}
    (hcheck : Lasts {0} check) (hbody : Lasts D body) :
    Lasts ((prefixTime am + ·) '' ((560000 + ·) '' D)) (functionFrame am check c body) :=
  Lasts.bind_instant (addrOperandCheck_lasts am) fun _ => Lasts.bind_instant hcheck fun _ =>
  Lasts.bind_image (addressing_lasts am) fun _ => Lasts.bind_image (writeByte_lasts c) fun _ => hbody

theorem functionFrame_lasts (am : AddrMode) {check body : Op Unit} (c : Byte) {n k : Nat}
    (hcheck : Lasts {0} check) (hbody : Lasts {n} body) (hk : 560000 + n = k) :
    Lasts {prefixTime am + k} (functionFrame am check c body) := by
  simpa [hk] using functionFrame_image_lasts am c hcheck hbody

theorem readPowerTail_lasts : Lasts {70000} readPowerTail :=
  Lasts.bind readBit_std_lasts fun b => Lasts.modify (f := State.setBitFlag b) fun _ => ⟨rfl, rfl⟩

theorem readSpTail_lasts : Lasts {5040000} readSpTail :=
  Lasts.congr (Lasts.bind (busRead_lasts 9) fun r => Lasts.bind_instant (checkCrc_lasts _) fun _ =>
    Lasts.bind_instant (validateConfig_lasts _) fun idx =>
    Lasts.modify (f := State.commitScratchpad r idx) fun _ => ⟨rfl, rfl⟩) rfl

theorem bufConfigCheck_lasts : Lasts {0} bufConfigCheck :=
  Lasts.get_bind fun _ => Lasts.bind_instant (validateConfig_lasts _) fun _ => Lasts.pure _

theorem writeSpTail_lasts : Lasts {1680000} writeSpTail :=
  Lasts.get_bind fun s => busWrite_lasts [s.bufByte 2, s.bufByte 3, s.bufByte 4]

/-- R215: at least one poll, at most `n`, 70 microseconds each. -/
theorem pollFrom_lasts (n : Nat) : Lasts ((70000 * ·) '' Set.Icc 1 n) (pollFrom n) := by
  induction n with
  | zero => exact Lasts.raise _
  | succ n ih =>
    have hmore : Lasts ((70000 * ·) '' Set.Icc 0 n) (pollFrom n) :=
      ih.mono (Set.image_mono (Set.Icc_subset_Icc_left (Nat.zero_le 1)))
    refine Lasts.mono (D := (70000 + ·) '' ((70000 * ·) '' Set.Icc 0 n))
      (Lasts.bind_image readBit_std_lasts fun b => ?_) ?_
    · cases b
      · exact hmore
      · exact (Lasts.modify fun _ => ⟨rfl, rfl⟩).mono (by simp)
    · rintro _ ⟨_, ⟨p, ⟨-, hp⟩, rfl⟩, rfl⟩
      exact ⟨p + 1, ⟨by omega, by omega⟩, by simp only; omega⟩

theorem withCount_lasts (i : Instr) {n : BitVec 4} {body : Op Unit} {D : Set Nat} (h : n.toNat ≤ 9 → Lasts D body) :
    Lasts D (withCount i n body) := by
  unfold withCount
  split
  · next hn => exact h (of_decide_eq_true hn)
  · exact Lasts.raise _

/-! ### The operations -/

theorem rbitBody_lasts : Lasts {70000} rbitBody :=
  Lasts.bind readBit_std_lasts fun b => Lasts.modify (f := State.setBitFlag b) fun _ => ⟨rfl, rfl⟩

theorem rbyteBody_lasts : Lasts {560000} rbyteBody :=
  Lasts.bind readByte_lasts fun v => Lasts.modify (f := fun s => { s with data := v }) fun _ => ⟨rfl, rfl⟩

theorem rbytesBody_lasts (n : Nat) : Lasts {560000 * n} (rbytesBody n) :=
  Lasts.bind (busRead_lasts n) fun r =>
  Lasts.modify (f := fun s => { s with buf := storeBytes s.buf 0 r }) fun _ => ⟨rfl, rfl⟩

/-- R149: `BUF` has 9 bytes, so a legal count sends that many. -/
theorem wbytesBody_lasts {n : Nat} (hn : n ≤ 9) : Lasts {560000 * n} (wbytesBody n) :=
  Lasts.get_bind fun s => (busWrite_lasts (s.bufPrefix n)).congr (by simp [State.bufPrefix, hn])

theorem readRomBody_lasts : Lasts {6000000} readRomBody :=
  Lasts.congr (Lasts.bind prologue_lasts fun _ => Lasts.bind (writeByte_lasts _) fun _ =>
    Lasts.bind (busRead_lasts 8) fun r => Lasts.bind_instant (checkCrc_lasts r) fun _ =>
    Lasts.modify (f := fun s => { s with addr := addrOfBytes r }) fun _ => ⟨rfl, rfl⟩) rfl

/-- The rows of R310: how long a successful operation may last. -/
def durations (i : Instr) : Set Nat :=
  if isRecall i then (fun p => stdTime i + 70000 * p) '' Set.Icc 1 143 else {stdTime i}

/-- Each operation runs a procedure that takes its row of R310; `RECALL_POLLS` is 143 (R218). -/
theorem exec_lasts (i : Instr) : ∃ body, exec i = operation (encode i) body ∧ Lasts (durations i) body := by
  cases i with
  | nop => exact ⟨_, rfl, Lasts.pure _⟩
  | init => exact ⟨_, rfl, Lasts.bind initSeq_std_lasts fun _ => Lasts.pure _⟩
  | rbit => exact ⟨_, rfl, rbitBody_lasts⟩
  | wbit b => exact ⟨_, rfl, writeBit_std_lasts b⟩
  | rbyte => exact ⟨_, rfl, rbyteBody_lasts⟩
  | wbyte v => exact ⟨_, rfl, writeByte_lasts v⟩
  | rbytes n => exact ⟨_, rfl, withCount_lasts _ fun _ => rbytesBody_lasts _⟩
  | wbytes n => exact ⟨_, rfl, withCount_lasts _ wbytesBody_lasts⟩
  | crc n => exact ⟨_, rfl, withCount_lasts _ fun _ => Lasts.modify fun _ => ⟨rfl, rfl⟩⟩
  | crcchk n => exact ⟨_, rfl, withCount_lasts _ fun _ => Lasts.get_bind fun _ => checkCrc_lasts _⟩
  | readRom => exact ⟨_, rfl, readRomBody_lasts⟩
  | matchRom => exact ⟨_, rfl, Lasts.bind_instant checkAddr_lasts fun _ => matchStep_lasts⟩
  | skipRom => exact ⟨_, rfl, skipStep_lasts⟩
  | searchRom => exact ⟨_, rfl, searchBody_lasts _⟩
  | alarmSearch => exact ⟨_, rfl, searchBody_lasts _⟩
  | convertT am => exact ⟨_, rfl, functionFrame_lasts am _ (Lasts.pure _) (Lasts.pure _) rfl⟩
  | recallE2 am =>
    refine ⟨_, rfl, (functionFrame_image_lasts am _ (Lasts.pure _) (pollFrom_lasts 143)).mono ?_⟩
    rintro _ ⟨_, ⟨_, ⟨p, hp, rfl⟩, rfl⟩, rfl⟩
    exact ⟨p, hp, Nat.add_assoc _ _ _⟩
  | readPower am => exact ⟨_, rfl, functionFrame_lasts am _ (Lasts.pure _) readPowerTail_lasts rfl⟩
  | copySp am => exact ⟨_, rfl, functionFrame_lasts am _ (Lasts.pure _) (delay_lasts _) rfl⟩
  | readSp am => exact ⟨_, rfl, functionFrame_lasts am _ (Lasts.pure _) readSpTail_lasts rfl⟩
  | writeSp am => exact ⟨_, rfl, functionFrame_lasts am _ bufConfigCheck_lasts writeSpTail_lasts rfl⟩

/-- An operation that shows `DONE` without `ERR` returned, so its trace, empty at acceptance, lasts what its procedure
takes. -/
theorem duration_operate {w : Word} {body : Op Unit} {D : Set Nat} {s : State} (h : Lasts D body)
    (hdone : (s.operate w body).done = true) (herr : (s.operate w body).err = false) :
    duration (s.operate w body).pinTrace ∈ D := by
  have hends := h (s.accept w)
  unfold State.operate at hdone herr ⊢
  match hb : body (s.accept w) with
  | .ok _ t =>
    rw [hb] at hends
    obtain ⟨-, d, hd, htime⟩ := hends
    simpa [State.pinTrace, htime] using hd
  | .error (.raised e) t => simp [hb] at herr
  | .error .waiting t =>
    have hwaits : t.done = false := by rw [hb] at hends; exact hends
    simp [hb, hwaits] at hdone
  | .error .rst t =>
    have hreset : t.done = false := by rw [hb] at hends; exact hends
    simp [hb, hreset] at hdone

/-- Settles O23: `exec_lasts` gives the operation's durations, `duration_operate` brings them to the pin trace.
That no `rst` arrives is not needed: `rst` clears `DONE`. -/
theorem successLastsItsTime : Obligations.SuccessLastsItsTime := by
  intro i s t _ hexec hdone herr
  obtain ⟨body, hbody, hlasts⟩ := exec_lasts i
  rw [hbody] at hexec
  obtain rfl : s.operate (encode i) body = t := by cases hexec; rfl
  have hmem := duration_operate hlasts hdone herr
  constructor
  · intro hrecall
    simpa [durations, hrecall] using hmem
  · intro hrecall
    obtain ⟨p, ⟨hlow, hhigh⟩, hp⟩ : _ ∈ (fun p => stdTime i + 70000 * p) '' Set.Icc 1 143 := by
      simpa only [durations, hrecall, if_true] using hmem
    exact ⟨p, hlow, hhigh, hp.symm⟩

end Sys2Proof.Machine

/-! ## What one move of the sequencer changes (R43, R243, R263) -/

namespace Sys2Proof.Machine

/-! ### No register and no flag before the end of the operation -/

theorem goto_working (q : Seq) (s : State) : Working s (s.goto q) := by constructor <;> rfl

theorem elapse_working (s : State) : Working s s.elapse := by constructor <;> rfl

theorem startDelay_working (t : Nat) (s : State) : Working s (s.startDelay t) := by constructor <;> rfl

theorem abort_working (e : OpError) (s : State) : Working s (s.abort e) := by constructor <;> rfl

/-- `SEQ` and the hidden registers are no registers of the host. -/
theorem setSeqHid_working (q : Seq) (h : Hidden) (s : State) : Working s { s with seq := q, hid := h } := by
  constructor <;> rfl

theorem driveLow_working (s : State) : Working s s.driveLow := by constructor <;> rfl

theorem releaseLine_working (s : State) : Working s s.releaseLine := by constructor <;> rfl

theorem enter_working (p : Phase) (s : State) : Working s (s.enter p) := by
  cases p <;> constructor <;> rfl

theorem advance_working (i : Instr) (p : Phase) (s : State) : Working s (s.advance i p) := enter_working _ s

theorem pinTick_working {act : Bool → State → State} (hact : ∀ b u, Working u (act b u)) (s : State) :
    Working s (s.pinTick act) := by
  unfold State.pinTick
  split
  · exact ((look_working s).trans (emit_working _ _)).trans (abort_working _ _)
  · exact (look_working s).trans (hact _ _)

theorem slotTick_working (sl : Slot) (p : SlotPos) (at_ : SlotPos → Seq) (onSample : Bool → Hidden → Hidden)
    {next : State → State} (hnext : ∀ u, Working u (next u)) (s : State) :
    Working s (s.slotTick sl p at_ onSample next) := by
  have hsample : ∀ b (u : State), Working u
      (((({ u with hid := onSample b u.hid }.emit (.sample b)).goto (at_ .tail))).startDelay
        (sl.span Config.profile .tail)) := fun b u => by constructor <;> rfl
  unfold State.slotTick
  split
  · split
    · exact (elapse_working s).trans (goto_working _ _)
    · exact (elapse_working s).trans (hnext _)
  · cases p with
    | low => exact pinTick_working (fun _ u => (driveLow_working u).trans (startDelay_working _ _)) s
    | rel => exact pinTick_working (fun _ u => (releaseLine_working u).trans (startDelay_working _ _)) s
    | sample => exact pinTick_working hsample s
    | tail =>
      cases sl with
      | write b => exact pinTick_working (fun _ u => (releaseLine_working u).trans (startDelay_working _ _)) s
      | read => exact hnext s
      | reset => exact hnext s

theorem nextTx_working (i : Instr) (p : Phase) (at_ : Nat → Nat → Seq) (count lastBit k j : Nat) (s : State) :
    Working s (s.nextTx i p at_ count lastBit k j) := by
  unfold State.nextTx
  split
  · exact goto_working _ s
  · split
    · exact goto_working _ s
    · exact advance_working i p s

theorem nextRx_working (i : Instr) (k j : Nat) (s : State) : Working s (s.nextRx i k j) := by
  unfold State.nextRx
  split
  · exact goto_working _ s
  · split
    · exact setSeqHid_working _ _ s
    · exact (setSeqHid_working s.seq _ s).trans (advance_working i _ _)

theorem nextTriplet_working (i : Instr) (k : Nat) (t : Triplet) (s : State) : Working s (s.nextTriplet i k t) := by
  unfold State.nextTriplet
  cases t with
  | r1 => exact goto_working _ s
  | r2 =>
    simp only
    split
    · exact abort_working _ s
    · exact setSeqHid_working _ _ s
  | wb =>
    refine (setSeqHid_working s.seq (keepAddrBit k (s.chosenBit k) s.hid) s).trans ?_
    simp only
    split
    · exact goto_working _ _
    · exact advance_working i _ _

theorem nextPoll_working (i : Instr) (k : Nat) (s : State) : Working s (s.nextPoll i k) := by
  unfold State.nextPoll
  split
  · exact advance_working i _ s
  · split
    · exact goto_working _ s
    · exact abort_working _ s

theorem afterInitSeq_working (i : Instr) (s : State) : Working s (s.afterInitSeq i) := by
  unfold State.afterInitSeq
  split
  · exact advance_working i _ s
  · exact abort_working _ s

theorem checkTick_working (i : Instr) (s : State) : Working s (s.checkTick i) := by
  unfold State.checkTick
  split
  · exact abort_working _ s
  · split
    · exact abort_working _ s
    · exact advance_working i _ s

theorem verdict_working (i : Instr) (s : State) : Working s (s.verdict i) := by
  unfold State.verdict
  split
  · exact advance_working i _ s
  · exact abort_working _ s

theorem validateTick_working (i : Instr) (s : State) : Working s (s.validateTick i) := by
  unfold State.validateTick
  split
  · exact (setSeqHid_working s.seq _ s).trans (advance_working _ _ _)
  · exact (setSeqHid_working s.seq _ s).trans (verdict_working _ _)
  · split
    · exact abort_working _ s
    · exact verdict_working _ s
  · exact verdict_working i s

theorem prepare_working (i : Instr) (s : State) : Working s (s.prepare i) := by
  unfold State.prepare
  split
  all_goals constructor <;> rfl

theorem awaitTick_working (i : Instr) (s : State) : Working s (s.awaitTick i) :=
  pinTick_working (fun b u => by
    cases b
    · exact Working.refl u
    · exact (emit_working _ u).trans (advance_working i _ _)) s

/-- R43, R242: until `COMPLETE` a move leaves every register and flag as it is. -/
theorem move_working (i : Instr) {s : State} (hs : ∀ r, s.seq ≠ .complete r) : Working s (s.move i) := by
  unfold State.move
  cases hq : s.seq with
  | idle => exact Working.refl s
  | decode => exact (prepare_working i s).trans (enter_working _ _)
  | check => exact checkTick_working i s
  | waitHigh => exact awaitTick_working i s
  | rst p => exact slotTick_working _ _ _ _ (afterInitSeq_working i) s
  | txAddrCmd j p => exact slotTick_working _ _ _ _ (nextTx_working i _ _ _ _ _ _) s
  | txAddr k j p => exact slotTick_working _ _ _ _ (nextTx_working i _ _ _ _ _ _) s
  | txCmd j p => exact slotTick_working _ _ _ _ (nextTx_working i _ _ _ _ _ _) s
  | txData k j p => exact slotTick_working _ _ _ _ (nextTx_working i _ _ _ _ _ _) s
  | rxData k j p => exact slotTick_working _ _ _ _ (nextRx_working i _ _) s
  | srch k t p => cases t <;> exact slotTick_working _ _ _ _ (nextTriplet_working i _ _) s
  | poll k p => exact slotTick_working _ _ _ _ (nextPoll_working i _) s
  | hold => exact (elapse_working s).trans (advance_working i _ _)
  | validate => exact validateTick_working i s
  | complete r => exact absurd hq (hs r)

/-- R43, R242: a move of a busy OWM leaves every register and flag as it is, or OWM is idle after it. -/
theorem sequence_working (s : State) : Working s s.sequence ∨ s.sequence.busy = false := by
  unfold State.sequence
  split
  next i _ =>
    by_cases hs : ∀ r, s.seq ≠ .complete r
    · exact .inl (move_working i hs)
    · push Not at hs
      obtain ⟨r, hr⟩ := hs
      cases r <;> exact .inr (by simp [State.move, hr, State.busy, Seq.busy])
  · split
    · exact .inl (Working.refl s)
    · exact .inr rfl
    · exact .inl (abort_working _ s)

/-- R41, R43, R291: so does a step of a busy OWM; `rst` makes it idle. -/
theorem tick_working (s : State) : Working s s.tick ∨ s.tick.busy = false := by
  unfold State.tick
  split
  next h rest _ _ =>
    cases h with
    | rst t => exact .inr rfl
    | write off w => exact .inl (by constructor <;> rfl)
    | read off => exact .inl (by constructor <;> rfl)
  · exact sequence_working s

theorem Working.sameResults {s t : State} (h : Working s t) : sameResults s t :=
  ⟨h.addr, h.conflict, h.data, h.crc, h.buf, h.bit, h.last, h.res⟩

theorem step_of_busy {s : State} (h : s.busy = true) : step s = .next s.tick := by simp [step, h]

theorem step_of_idle {s : State} (h : s.busy = false) : step s = idleStep s := by simp [step, h]

/-- Settles O10: a step that leaves OWM busy is `Working`. -/
theorem resultsStayOldWhileBusy : Obligations.ResultsStayOldWhileBusy := by
  intro s t hs hstep ht
  obtain rfl : s.tick = t := by simpa [step_of_busy hs] using hstep
  obtain h | h := tick_working s
  · exact ⟨h.sameResults, h.presence⟩
  · simp [h] at ht

end Sys2Proof.Machine

/-! ## Where a move leaves the sequencer and the line (R131, R243, R247) -/

namespace Sys2Proof.Machine

/-- R260: a checksum error has a remainder that is not 0. -/
def OpError.reportable : OpError → Prop
  | .checksumMismatch c => c ≠ 0#8
  | _ => True

/-- The part of the invariant that concerns the position, the line and the pending error. -/
structure Placed (i : Instr) (s : State) : Prop where
  legal   : s.seq.legal i
  line    : s.lineOk
  pending : s.pendingOk

theorem placed_of_released {i : Instr} {s : State} (hline : s.owDriveLow = false) (hlegal : s.seq.legal i)
    (hpending : s.pendingOk) : Placed i s :=
  ⟨hlegal, fun h => by simp [hline] at h, hpending⟩

theorem abort_placed (i : Instr) {s : State} {e : OpError} (he : e.reportable) : Placed i (s.abort e) :=
  placed_of_released rfl trivial fun c hc => by
    obtain rfl : e = .checksumMismatch c := by simpa using hc
    exact he

/-! ### The first position of a phase -/

/-- An operation that moves no payload byte has no payload phase. -/
theorem payloadBytesOf_pos_or_plan_eq (i : Instr) : 0 < payloadBytesOf i ∨ plan i = [.complete] := by
  cases i with
  | rbytes n =>
    by_cases hn : n = 0#4
    · exact .inr (by simp [plan, hn])
    · exact .inl (by simp only [payloadBytesOf]; bv_omega)
  | wbytes n =>
    by_cases hn : n = 0#4
    · exact .inr (by simp [plan, hn])
    · exact .inl (by simp only [payloadBytesOf]; bv_omega)
  | _ => exact .inl (Nat.succ_pos _)

theorem phaseAfter_mem (p : Phase) (l : List Phase) : phaseAfter p l ∈ Phase.complete :: l := by
  induction l with
  | nil => simp [phaseAfter]
  | cons q r ih =>
    unfold phaseAfter
    split
    · cases r <;> simp
    · simp only [List.mem_cons] at ih ⊢
      tauto

theorem payloadBytesOf_pos {i : Instr} {p : Phase} (hp : p ∈ Phase.complete :: plan i) (hne : p ≠ .complete) :
    0 < payloadBytesOf i := by
  obtain h | h := payloadBytesOf_pos_or_plan_eq i
  · exact h
  · simp [h, hne] at hp

theorem enter_placed {i : Instr} {p : Phase} {s : State} (hline : s.owDriveLow = false)
    (hp : p ∈ Phase.complete :: plan i) : Placed i (s.enter p) := by
  cases p with
  | check | waitHigh | rst | hold | validate | complete => exact placed_of_released hline trivial nofun
  | txAddrCmd | txCmd => exact placed_of_released hline ⟨Nat.zero_le _, rfl⟩ nofun
  | txAddr => exact placed_of_released hline ⟨by decide, Nat.zero_le _, rfl⟩ nofun
  | txData => exact placed_of_released hline ⟨payloadBytesOf_pos hp (by simp), Nat.zero_le _, rfl⟩ nofun
  | rxData => exact placed_of_released hline ⟨payloadBytesOf_pos hp (by simp), Nat.zero_le _⟩ nofun
  | srch => exact placed_of_released hline (Nat.zero_lt_succ 63) nofun
  | poll => exact placed_of_released hline ⟨le_rfl, by decide⟩ nofun

theorem advance_placed (i : Instr) (p : Phase) {s : State} (hline : s.owDriveLow = false) :
    Placed i (s.advance i p) := enter_placed hline (phaseAfter_mem p _)

/-! ### Inside a slot -/

/-- The position whose pin event is the `PinRelease` (R94, R95). -/
def Slot.releasePos : Slot → SlotPos
  | .write _ => .tail
  | _ => .rel

/-- The positions a slot has (R243). -/
def Slot.has : Slot → SlotPos → Bool
  | .write _, p => p.ofWrite
  | _, _ => true

/-- `at_` gives the positions of a slot of kind `sl` in operation `i`. -/
structure SlotAt (i : Instr) (sl : Slot) (at_ : SlotPos → Seq) : Prop where
  legal   : ∀ q, sl.has q = true → (at_ q).legal i
  pos     : ∀ q, (at_ q).slotPos = some q
  release : ∀ q, (at_ q).releaseNext = (q == sl.releasePos)

theorem slotAt_rst (i : Instr) : SlotAt i .reset .rst := ⟨fun _ _ => trivial, fun _ => rfl, fun _ => rfl⟩

theorem slotAt_txAddrCmd (i : Instr) (b : Bool) {j : Nat} (hj : j ≤ 7) : SlotAt i (.write b) (.txAddrCmd j) :=
  ⟨fun _ h => ⟨hj, h⟩, fun _ => rfl, fun _ => rfl⟩

theorem slotAt_txAddr (i : Instr) (b : Bool) {k j : Nat} (hk : k < 8) (hj : j ≤ 7) :
    SlotAt i (.write b) (.txAddr k j) := ⟨fun _ h => ⟨hk, hj, h⟩, fun _ => rfl, fun _ => rfl⟩

theorem slotAt_txCmd (i : Instr) (b : Bool) {j : Nat} (hj : j ≤ 7) : SlotAt i (.write b) (.txCmd j) :=
  ⟨fun _ h => ⟨hj, h⟩, fun _ => rfl, fun _ => rfl⟩

theorem slotAt_txData {i : Instr} (b : Bool) {k j : Nat} (hk : k < payloadBytesOf i) (hj : j ≤ lastBitOf i) :
    SlotAt i (.write b) (.txData k j) := ⟨fun _ h => ⟨hk, hj, h⟩, fun _ => rfl, fun _ => rfl⟩

theorem slotAt_rxData {i : Instr} {k j : Nat} (hk : k < payloadBytesOf i) (hj : j ≤ lastBitOf i) :
    SlotAt i .read (.rxData k j) := ⟨fun _ _ => ⟨hk, hj⟩, fun _ => rfl, fun _ => rfl⟩

theorem slotAt_srch_r1 (i : Instr) {k : Nat} (hk : k < 64) : SlotAt i .read (.srch k .r1) :=
  ⟨fun _ _ => hk, fun _ => rfl, fun _ => rfl⟩

theorem slotAt_srch_r2 (i : Instr) {k : Nat} (hk : k < 64) : SlotAt i .read (.srch k .r2) :=
  ⟨fun _ _ => hk, fun _ => rfl, fun _ => rfl⟩

theorem slotAt_srch_wb (i : Instr) (b : Bool) {k : Nat} (hk : k < 64) : SlotAt i (.write b) (.srch k .wb) :=
  ⟨fun _ h => ⟨hk, h⟩, fun _ => rfl, fun _ => rfl⟩

theorem slotAt_poll (i : Instr) {k : Nat} (hk : 1 ≤ k ∧ k ≤ Config.recallPolls) : SlotAt i .read (.poll k) :=
  ⟨fun _ _ => hk, fun _ => rfl, fun _ => rfl⟩

theorem Slot.has_of_nextPos {sl : Slot} {p q : SlotPos} (h : sl.nextPos p = some q) : sl.has q = true := by
  cases sl with
  | write b =>
    cases p with
    | low => cases h; rfl
    | rel | sample | tail => cases h
  | read | reset => rfl

theorem Slot.has_tail (sl : Slot) : sl.has .tail = true := by cases sl <;> rfl

/-- R94, R95: the `PinRelease` is the pin event after the `PinLow`. -/
theorem Slot.nextPos_low (sl : Slot) : sl.nextPos .low = some sl.releasePos := by cases sl <;> rfl

/-- R6: no low phase is empty. -/
theorem Slot.span_low_pos (sl : Slot) : 0 < sl.span Config.profile .low := by
  cases sl with
  | write b => cases b <;> decide
  | read | reset => decide

section InSlot

variable {i : Instr} {sl : Slot} {at_ : SlotPos → Seq} (hat : SlotAt i sl at_)

include hat

/-- R131 at a position of a slot. -/
theorem SlotAt.lineOk_iff {s : State} {q : SlotPos} (hq : s.seq = at_ q) :
    s.lineOk ↔ (s.owDriveLow = true → (q = .low ∧ 0 < s.hid.tmr) ∨ (q = sl.releasePos ∧ s.hid.tmr = 0)) := by
  simp [State.lineOk, hq, hat.pos, hat.release]

theorem SlotAt.placed {s : State} {q : SlotPos} (hq : s.seq = at_ q) (hlegal : (at_ q).legal i) (hline : s.lineOk) :
    Placed i s := by
  refine ⟨hq ▸ hlegal, hline, fun c hc => ?_⟩
  have hpos := hat.pos q
  rw [← hq, hc] at hpos
  cases hpos

end InSlot

theorem look_seq (s : State) : s.look.2.seq = s.seq := by
  unfold State.look
  split <;> rfl

theorem look_owDriveLow (s : State) : s.look.2.owDriveLow = s.owDriveLow := by
  unfold State.look
  split <;> rfl

theorem pinTick_placed {i : Instr} {act : Bool → State → State} {s : State}
    (hact : ∀ b u, u.seq = s.seq → u.owDriveLow = s.owDriveLow → Placed i (act b u)) : Placed i (s.pinTick act) := by
  unfold State.pinTick
  split
  · exact abort_placed i trivial
  · exact hact _ _ (look_seq s) (look_owDriveLow s)

/-- R131: a move inside a slot keeps the line to its low phase; what follows the slot starts with the line released. -/
theorem slotTick_placed {i : Instr} {sl : Slot} {at_ : SlotPos → Seq} (hat : SlotAt i sl at_) {s : State} {p : SlotPos}
    (hseq : s.seq = at_ p) (hs : Placed i s) (onSample : Bool → Hidden → Hidden) {next : State → State}
    (hnext : ∀ u, u.owDriveLow = false → Placed i (next u)) : Placed i (s.slotTick sl p at_ onSample next) := by
  have hlegal : (at_ p).legal i := hseq ▸ hs.legal
  have hline := (hat.lineOk_iff hseq).1 hs.line
  unfold State.slotTick
  split
  next htmr =>
    have hlow : s.owDriveLow = true → p = .low := fun h => by
      obtain ⟨hp, -⟩ | ⟨-, h0⟩ := hline h
      · exact hp
      · omega
    split
    next q hq =>
      refine hat.placed rfl (hat.legal q (Slot.has_of_nextPos hq)) ((hat.lineOk_iff rfl).2 fun h => .inr ⟨?_, rfl⟩)
      rw [hlow h, Slot.nextPos_low] at hq
      exact (Option.some.inj hq).symm
    next hend =>
      refine hnext _ (Bool.eq_false_iff.2 fun h => ?_)
      rw [hlow h, Slot.nextPos_low] at hend
      cases hend
  next htmr =>
    have hrel : s.owDriveLow = true → p = sl.releasePos := fun h => by
      obtain ⟨-, h0⟩ | ⟨hp, -⟩ := hline h
      · exact absurd h0 htmr
      · exact hp
    cases p with
    | low =>
      refine pinTick_placed fun _ u hu _ => hat.placed (q := .low) (hu.trans hseq) hlegal ?_
      exact (hat.lineOk_iff (s := u.driveLow.startDelay _) (hu.trans hseq)).2 fun _ => .inl ⟨rfl, sl.span_low_pos⟩
    | rel =>
      exact pinTick_placed fun _ u hu _ => hat.placed (q := .rel) (hu.trans hseq) hlegal nofun
    | sample =>
      have hfalse : s.owDriveLow = false := Bool.eq_false_iff.2 fun h => by
        have := hrel h
        cases sl <;> cases this
      exact pinTick_placed fun _ u _ hu =>
        hat.placed (q := .tail) rfl (hat.legal _ sl.has_tail) fun h => absurd (hu.symm.trans h) (by simp [hfalse])
    | tail =>
      cases sl with
      | write b => exact pinTick_placed fun _ u hu _ => hat.placed (q := .tail) (hu.trans hseq) hlegal nofun
      | read | reset =>
        exact hnext s (Bool.eq_false_iff.2 fun h => by cases hrel h)


/-! ### After a slot, and the positions that are no slot -/

section AfterSlot

variable {s : State} (hline : s.owDriveLow = false)

include hline

/-- R247: the next bit or byte is inside the bounds of the phase. -/
theorem nextTx_placed (i : Instr) (p : Phase) {at_ : Nat → Nat → Seq} {count lastBit k j : Nat} (hk : k < count)
    (hat : ∀ k' j', k' < count → j' ≤ lastBit →
      (at_ k' j').legal i ∧ ∀ c, at_ k' j' ≠ .complete (some (.checksumMismatch c))) :
    Placed i (s.nextTx i p at_ count lastBit k j) := by
  have hgoto : ∀ k' j', k' < count → j' ≤ lastBit → Placed i (s.goto (at_ k' j')) := fun k' j' hk' hj' =>
    placed_of_released hline (hat k' j' hk' hj').1 fun c hc => absurd hc ((hat k' j' hk' hj').2 c)
  unfold State.nextTx
  split
  next hj => exact hgoto k (j + 1) hk hj
  next =>
    split
    next hk' => exact hgoto (k + 1) 0 hk' (Nat.zero_le _)
    next => exact advance_placed i p hline

theorem nextRx_placed (i : Instr) {k : Nat} (hk : k < payloadBytesOf i) (j : Nat) : Placed i (s.nextRx i k j) := by
  unfold State.nextRx
  split
  next hj => exact placed_of_released hline ⟨hk, hj⟩ nofun
  next =>
    split
    next hk' => exact placed_of_released hline ⟨hk', Nat.zero_le _⟩ nofun
    next => exact advance_placed i .rxData hline

theorem nextTriplet_placed (i : Instr) {k : Nat} (hk : k < 64) (t : Triplet) : Placed i (s.nextTriplet i k t) := by
  unfold State.nextTriplet
  cases t with
  | r1 => exact placed_of_released hline hk nofun
  | r2 =>
    simp only
    split
    next => exact abort_placed i trivial
    next => exact placed_of_released hline ⟨hk, rfl⟩ nofun
  | wb =>
    simp only
    split
    next hk' => exact placed_of_released hline (Nat.succ_lt_succ hk') nofun
    next => exact advance_placed i .srch hline

theorem nextPoll_placed (i : Instr) (k : Nat) : Placed i (s.nextPoll i k) := by
  unfold State.nextPoll
  split
  next => exact advance_placed i .poll hline
  next =>
    split
    next hk => exact placed_of_released hline ⟨Nat.le_add_left 1 k, hk⟩ nofun
    next => exact abort_placed i trivial

theorem afterInitSeq_placed (i : Instr) : Placed i (s.afterInitSeq i) := by
  unfold State.afterInitSeq
  split
  next => exact advance_placed i .rst hline
  next => exact abort_placed i trivial

theorem checkTick_placed (i : Instr) : Placed i (s.checkTick i) := by
  unfold State.checkTick
  split
  next hbad =>
    have hcrc : crc8 (bytesOf s.addr) ≠ 0#8 := by simpa using (Bool.and_eq_true_iff.1 hbad).2
    exact abort_placed i hcrc
  next =>
    split
    next => exact abort_placed i trivial
    next => exact advance_placed i .check hline

theorem verdict_placed (i : Instr) : Placed i (s.verdict i) := by
  unfold State.verdict
  split
  next => exact advance_placed i .validate hline
  next hbad => exact abort_placed i hbad

theorem validateTick_placed (i : Instr) : Placed i (s.validateTick i) := by
  have hcrcw : ∀ c, State.owDriveLow { s with hid := { s.hid with crcw := c } } = false := fun _ => hline
  unfold State.validateTick
  split
  next => exact advance_placed _ .validate (hcrcw _)
  next => exact verdict_placed (hcrcw _) _
  next =>
    split
    next => exact abort_placed _ trivial
    next => exact verdict_placed hline _
  next => exact verdict_placed hline i

theorem prepare_owDriveLow (i : Instr) : (s.prepare i).owDriveLow = false := by
  unfold State.prepare
  split <;> exact hline

end AfterSlot

/-- R123: `AwaitHigh` waits on, or the reset pulse comes. -/
theorem awaitTick_placed {i : Instr} {s : State} (hseq : s.seq = .waitHigh) (hline : s.owDriveLow = false) :
    Placed i (s.awaitTick i) :=
  pinTick_placed fun b u hq hl => by
    cases b with
    | true => exact advance_placed i .waitHigh (hl.trans hline)
    | false =>
      have hu : u.seq = .waitHigh := hq.trans hseq
      exact placed_of_released (hl.trans hline) (hu ▸ trivial) fun c hc => by simp [hu] at hc

/-- Outside the slots the line is released. -/
theorem released_of_no_slot {s : State} (h : s.lineOk) (hpos : s.seq.slotPos = none)
    (hrel : s.seq.releaseNext = false) : s.owDriveLow = false :=
  Bool.eq_false_iff.2 fun hd => by simpa [hpos, hrel] using h hd

/-- R131, R247: until `COMPLETE` a move of the operation leads to a position inside its bounds. -/
theorem move_placed {i : Instr} {s : State} (hs : Placed i s) (hc : ∀ r, s.seq ≠ .complete r) :
    Placed i (s.move i) := by
  have hlegal := hs.legal
  have hline := released_of_no_slot hs.line
  unfold State.move
  cases hq : s.seq with
  | idle => exact hs
  | decode =>
    rw [hq] at hline
    exact enter_placed (prepare_owDriveLow (hline rfl rfl) i) (by cases plan i <;> simp)
  | check => rw [hq] at hline; exact checkTick_placed (hline rfl rfl) i
  | waitHigh => rw [hq] at hline; exact awaitTick_placed hq (hline rfl rfl)
  | rst p => exact slotTick_placed (slotAt_rst i) hq hs _ fun u hu => afterInitSeq_placed hu i
  | txAddrCmd j p =>
    rw [hq] at hlegal
    obtain ⟨hj, -⟩ := hlegal
    exact slotTick_placed (slotAt_txAddrCmd i _ hj) hq hs _ fun u hu =>
      nextTx_placed hu i _ Nat.one_pos fun _ _ _ hj' => ⟨⟨hj', rfl⟩, nofun⟩
  | txAddr k j p =>
    rw [hq] at hlegal
    obtain ⟨hk, hj, -⟩ := hlegal
    exact slotTick_placed (slotAt_txAddr i _ hk hj) hq hs _ fun u hu =>
      nextTx_placed hu i _ hk fun _ _ hk' hj' => ⟨⟨hk', hj', rfl⟩, nofun⟩
  | txCmd j p =>
    rw [hq] at hlegal
    obtain ⟨hj, -⟩ := hlegal
    exact slotTick_placed (slotAt_txCmd i _ hj) hq hs _ fun u hu =>
      nextTx_placed hu i _ Nat.one_pos fun _ _ _ hj' => ⟨⟨hj', rfl⟩, nofun⟩
  | txData k j p =>
    rw [hq] at hlegal
    obtain ⟨hk, hj, -⟩ := hlegal
    exact slotTick_placed (slotAt_txData _ hk hj) hq hs _ fun u hu =>
      nextTx_placed hu i _ hk fun _ _ hk' hj' => ⟨⟨hk', hj', rfl⟩, nofun⟩
  | rxData k j p =>
    rw [hq] at hlegal
    obtain ⟨hk, hj⟩ := hlegal
    exact slotTick_placed (slotAt_rxData hk hj) hq hs _ fun u hu => nextRx_placed hu i hk j
  | srch k t p =>
    rw [hq] at hlegal
    cases t with
    | r1 => exact slotTick_placed (slotAt_srch_r1 i hlegal) hq hs _ fun u hu => nextTriplet_placed hu i hlegal _
    | r2 => exact slotTick_placed (slotAt_srch_r2 i hlegal) hq hs _ fun u hu => nextTriplet_placed hu i hlegal _
    | wb =>
      obtain ⟨hk, -⟩ := hlegal
      exact slotTick_placed (slotAt_srch_wb i _ hk) hq hs _ fun u hu => nextTriplet_placed hu i hk _
  | poll k p =>
    rw [hq] at hlegal
    exact slotTick_placed (slotAt_poll i hlegal) hq hs _ fun u hu => nextPoll_placed hu i k
  | hold => rw [hq] at hline; exact advance_placed i .hold (hline rfl rfl)
  | validate => rw [hq] at hline; exact validateTick_placed (hline rfl rfl) i
  | complete r => exact absurd hq (hc r)

end Sys2Proof.Machine

/-! ## The invariant: where it comes from (R29, R26, R131, R243, R260) -/

namespace Sys2Proof.Machine

/-- The host's registers and the inputs are outside the invariant. -/
theorem inv_congr {s t : State} (h : s.Inv) (hdone : t.done = s.done) (herr : t.err = s.err)
    (hecode : t.ecode = s.ecode) (heinfo : t.einfo = s.einfo) (hcmd : t.cmd = s.cmd) (hseq : t.seq = s.seq) (hline : t.owDriveLow = s.owDriveLow)
    (hhid : t.hid = s.hid) : t.Inv := by
  simpa only [State.Inv, State.indicationOk, State.busy, State.seqOk, State.lineOk, State.pendingOk, hdone, herr,
    hecode, heinfo, hcmd, hseq, hline, hhid] using h

/-- An idle OWM needs only the line released and the indication right. -/
theorem inv_of_idle {s : State} (hseq : s.seq = .idle) (hline : s.owDriveLow = false)
    (hdone : s.err = true → s.done = true) (hnone : s.err = false → s.ecode = 0#4 ∧ s.einfo = 0#8)
    (hcode : s.err = true → 1 ≤ s.ecode.toNat ∧ s.ecode.toNat ≤ 6)
    (hcrc : s.ecode = 4#4 → s.einfo ≠ 0#8) : s.Inv := by
  refine ⟨⟨fun h => by simp [State.busy, hseq, Seq.busy] at h, hdone, hnone, hcode, hcrc⟩, ?_,
    fun h => by simp [hline] at h, fun c hc => by simp [hseq] at hc⟩
  unfold State.seqOk
  split
  · simp only [hseq]; trivial
  · exact .inl hseq

theorem inv_finishOk (s : State) : s.finishOk.Inv :=
  inv_of_idle rfl rfl nofun (fun _ => ⟨rfl, rfl⟩) nofun nofun

/-- R260: the codes are 1 to 6, and only a checksum error has code 4. -/
theorem inv_raiseError {e : OpError} (he : e.reportable) (s : State) : (s.raiseError e).Inv := by
  refine inv_of_idle rfl rfl (fun _ => rfl) nofun (fun _ => ?_) ?_
  · cases e <;> simp [OpError.code]
  · cases e with
    | checksumMismatch c => exact fun _ => he
    | pinFault | noDevice | timeout | invalidConfig | illegalCommand => nofun

theorem inv_afterRst (s : State) : s.afterRst.Inv :=
  inv_of_idle rfl rfl nofun (fun _ => ⟨rfl, rfl⟩) nofun nofun

/-- Settles O15: the reset state is a state after `rst`. -/
theorem resetMeetsTheInvariant : Obligations.ResetMeetsTheInvariant := inv_afterRst State.reset

/-- R29: with `BUSY = 1` there is no indication. -/
theorem busy_indication {s : State} (h : s.Inv) (hs : s.busy = true) :
    s.done = false ∧ s.err = false ∧ s.ecode = 0#4 ∧ s.einfo = 0#8 := by
  obtain ⟨⟨hbusy, -, hnone, -, -⟩, -⟩ := h
  obtain ⟨hdone, herr⟩ := hbusy hs
  exact ⟨hdone, herr, hnone herr⟩

/-- Without an indication the invariant is about the sequencer and the line. -/
theorem inv_of_no_indication {s : State} (h : s.done = false ∧ s.err = false ∧ s.ecode = 0#4 ∧ s.einfo = 0#8)
    (hseq : s.seqOk) (hline : s.lineOk) (hpending : s.pendingOk) : s.Inv := by
  obtain ⟨hdone, herr, hecode, heinfo⟩ := h
  refine ⟨⟨fun _ => ⟨hdone, herr⟩, ?_, fun _ => ⟨hecode, heinfo⟩, ?_, ?_⟩, hseq, hline, hpending⟩ <;>
    simp [herr, hecode]

theorem reportable_of_pending {s : State} {e : OpError} (h : s.pendingOk) (hs : s.seq = .complete (some e)) :
    e.reportable := by
  cases e with
  | checksumMismatch c => exact h c hs
  | pinFault | noDevice | timeout | invalidConfig | illegalCommand => trivial

/-! ### A busy OWM -/

/-- A move inside an operation keeps the invariant. -/
theorem inv_move {i : Instr} {s : State} (hd : decode s.cmd = .ok i) (h : s.Inv) (hs : s.busy = true) :
    (s.move i).Inv := by
  have ⟨_, hseq, hline, hpending⟩ := h
  rw [State.seqOk, hd] at hseq
  by_cases hc : ∀ r, s.seq ≠ .complete r
  · have hw := move_working i hc
    have hp := move_placed ⟨hseq, hline, hpending⟩ hc
    refine inv_of_no_indication ?_ ?_ hp.line hp.pending
    · simpa only [hw.done, hw.err, hw.ecode, hw.einfo] using busy_indication h hs
    · rw [State.seqOk, hw.cmd, hd]
      exact hp.legal
  · push Not at hc
    obtain ⟨r, hr⟩ := hc
    unfold State.move
    rw [hr]
    cases r with
    | none => exact inv_finishOk _
    | some e => exact inv_raiseError (reportable_of_pending hpending hr) s

/-- So does a move that only awaits the error end of an illegal word (R245). -/
theorem inv_sequence {s : State} (h : s.Inv) (hs : s.busy = true) : s.sequence.Inv := by
  unfold State.sequence
  split
  next i hd => exact inv_move hd h hs
  next err hd =>
    split
    next => exact h
    next e he =>
      obtain ⟨-, -, -, hpending⟩ := h
      exact inv_raiseError (reportable_of_pending hpending he) s
    next =>
      have hp : Placed .nop (s.abort (.illegalCommand (opcOf s.cmd))) := abort_placed _ trivial
      have hnone := busy_indication h hs
      refine inv_of_no_indication ?_ ?_ hp.line hp.pending
      · exact hnone
      · rw [State.seqOk, State.abort_cmd, hd]
        exact .inr (.inr ⟨_, rfl⟩)

theorem inv_tick {s : State} (h : s.Inv) (hs : s.busy = true) : s.tick.Inv := by
  unfold State.tick
  split
  next ev rest _ _ =>
    cases ev with
    | rst t => exact inv_afterRst _
    | write off w => exact inv_congr h rfl rfl rfl rfl rfl rfl rfl rfl
    | read off => exact inv_congr h rfl rfl rfl rfl rfl rfl rfl rfl
  · exact inv_sequence h hs

end Sys2Proof.Machine

/-! ## How the procedures of the operations are put together

Said once (`Built`), with what they may return; what a run can do to the state, and that host writes do not matter to
it, are then inductions over how a procedure is built. -/

namespace Sys2Proof.Machine

/-- The same state with other things to come from the outside world. -/
def State.withInputs (l : List Input) (s : State) : State := { s with inputs := l }

/-- A procedure put together from pin events, delays, reads of registers and writes of the hidden state. `W` holds if
an initialization sequence may be among the parts; `a` and `b` say whether the line is known to be released before and
after (R131); `Q` is what is known of the value returned. -/
inductive Built (W : Prop) : {α : Type} → Bool → Bool → (α → Prop) → Op α → Prop
  | ret {α : Type} {a : Bool} {Q : α → Prop} {v : α} (hv : Q v) : Built W a a Q (pure v)
  | fail {α : Type} {a b : Bool} {Q : α → Prop} {e : OpError} (he : e.reportable) : Built W a b Q (raise e)
  | seq {α β : Type} {a b c : Bool} {P : α → Prop} {Q : β → Prop} {x : Op α} {f : α → Op β}
      (hx : Built W a b P x) (hf : ∀ v, P v → Built W b c Q (f v)) : Built W a c Q (x >>= f)
  | read {β : Type} {a b : Bool} {Q : β → Prop} {f : State → Op β}
      (hin : ∀ l s, f (State.withInputs l s) = f s) (hf : ∀ s, Built W a b Q (f s)) :
      Built W a b Q (get >>= f)
  | setHidden {a : Bool} {g : State → Hidden} (hin : ∀ l s, g (State.withInputs l s) = g s)
      (hlatch : W ∨ ∀ s, (g s).presence = s.hid.presence) :
      Built W a a (fun _ => True) (modify fun s => { s with hid := g s })
  | wait {a : Bool} (t : Nat) : Built W a a (fun _ => True) (delay t)
  | low {a : Bool} : Built W a false (fun _ => True) pinLow
  | release {a : Bool} : Built W a true (fun _ => True) pinRelease
  | sample {a : Bool} : Built W a a (fun _ => True) pinSample
  | await (hW : W) : Built W true true (fun _ => True) awaitHigh

section Procedures

variable {W : Prop} {a : Bool}

theorem readBit_built (P : Profile) : Built W a true (fun _ => True) (readBit P) :=
  .seq .low fun _ _ => .seq (.wait _) fun _ _ => .seq .release fun _ _ => .seq (.wait _) fun _ _ =>
  .seq .sample fun _ _ => .seq (.wait _) fun _ _ => .ret trivial

theorem writeBit_built (P : Profile) (b : Bool) : Built W a true (fun _ => True) (writeBit P b) :=
  .seq .low fun _ _ => .seq (.wait _) fun _ _ => .seq .release fun _ _ => .wait _

theorem initSeq_built (hW : W) (P : Profile) : Built W true true (fun _ => True) (initSeq P) :=
  .seq (.await hW) fun _ _ => .seq .low fun _ _ => .seq (.wait _) fun _ _ => .seq .release fun _ _ =>
  .seq (.wait _) fun _ _ => .seq .sample fun _ _ => .seq (.setHidden (fun _ _ => rfl) (.inl hW)) fun _ _ =>
  .seq (.wait _) fun _ _ => .ret trivial

theorem readBits_built (n : Nat) (acc : Byte) : Built W true true (fun _ => True) (readBits n acc) := by
  induction n generalizing acc with
  | zero => exact .ret trivial
  | succ n ih => exact .seq (readBit_built _) fun _ _ => ih _

theorem writeBits_built (l : List Bool) : Built W true true (fun _ => True) (writeBits l) := by
  induction l with
  | nil => exact .ret trivial
  | cons b r ih => exact .seq (writeBit_built _ b) fun _ _ => ih

theorem readByte_built : Built W true true (fun _ => True) readByte := readBits_built 8 0#8

theorem writeByte_built (v : Byte) : Built W true true (fun _ => True) (writeByte v) := writeBits_built _

/-- R142: as many bytes as asked for. -/
theorem busRead_built (n : Nat) : Built W true true (fun r => r.length = n) (busRead n) := by
  induction n with
  | zero => exact .ret rfl
  | succ n ih => exact .seq readByte_built fun v _ => .seq ih fun r hr => .ret (by simp [hr])

theorem busWrite_built (l : List Byte) : Built W true true (fun _ => True) (busWrite l) := by
  induction l with
  | nil => exact .ret trivial
  | cons v r ih => exact .seq (writeByte_built v) fun _ _ => ih

/-- R160: past the check the remainder is 0. -/
theorem checkCrc_built {data : List Byte} {Q : Unit → Prop} (hQ : crc8 data = 0#8 → Q ()) :
    Built W a a Q (checkCrc data) := by
  unfold checkCrc
  split
  next h => exact .ret (hQ h)
  next h => exact .fail h

theorem checkAddr_built : Built W a a (fun _ => True) checkAddr :=
  .read (fun _ _ => rfl) fun _ => checkCrc_built fun _ => trivial

theorem validateConfig_built (v : Byte) : Built W a a (fun _ => True) (validateConfig v) := by
  unfold validateConfig
  split
  · exact .ret trivial
  · exact .fail trivial

theorem bufConfigCheck_built : Built W a a (fun _ => True) bufConfigCheck :=
  .read (fun _ _ => rfl) fun _ => .seq (validateConfig_built _) fun _ _ => .ret trivial

theorem prologue_built (hW : W) : Built W true true (fun _ => True) prologue :=
  .seq (initSeq_built hW _) fun p _ => by
    cases p with
    | false => exact .fail trivial
    | true => exact .ret trivial

theorem skipStep_built (hW : W) : Built W true true (fun _ => True) skipStep :=
  .seq (prologue_built hW) fun _ _ => writeByte_built _

theorem matchStep_built (hW : W) : Built W true true (fun _ => True) matchStep :=
  .seq (prologue_built hW) fun _ _ => .seq (writeByte_built _) fun _ _ =>
  .read (fun _ _ => rfl) fun _ => busWrite_built _

theorem searchFrom_built (m : Word64) (last : Option Nat) (n i : Nat) (addr wmask : Word64) :
    Built W true true (fun _ => True) (searchFrom m last n i addr wmask) := by
  induction n generalizing i addr wmask with
  | zero => exact .ret trivial
  | succ n ih =>
    refine .seq (readBit_built _) fun r1 _ => .seq (readBit_built _) fun r2 _ => ?_
    split
    · exact .fail trivial
    · exact .seq (writeBit_built _ _) fun _ _ => ih _ _ _

theorem startPass_built : Built W a a (fun _ => True) startPass :=
  .setHidden (fun _ _ => rfl) (.inr fun _ => rfl)

theorem addrOperandCheck_built (am : AddrMode) : Built W a a (fun _ => True) (addrOperandCheck am) := by
  cases am with
  | noAddr | skipAddr => exact .ret trivial
  | matchAddr => exact checkAddr_built

theorem addressing_built {am : AddrMode} (hW : am ≠ .noAddr → W) :
    Built W true true (fun _ => True) (addressing am) := by
  cases am with
  | noAddr => exact .ret trivial
  | skipAddr => exact skipStep_built (hW nofun)
  | matchAddr => exact matchStep_built (hW nofun)

end Procedures

/-! ### The results of an operation -/

/-- `f` writes only the results the rules of operation `i` name (R21 to R27), and only an address that passes its check
(R47). -/
structure OwnResults (i : Instr) (f : State → State) : Prop where
  addr     : writesAddr i = false → ∀ s, (f s).addr = s.addr
  conflict : writesConflict i = false → ∀ s, (f s).conflict = s.conflict
  last     : writesConflict i = false → ∀ s, (f s).last = s.last
  data     : writesData i = false → ∀ s, (f s).data = s.data
  crc      : writesCrc i = false → ∀ s, (f s).crc = s.crc
  buf      : writesBuf i = false → ∀ s, (f s).buf = s.buf
  bit      : writesBit i = false → ∀ s, (f s).bit = s.bit
  res      : writesRes i = false → ∀ s, (f s).res = s.res
  checked  : ∀ s, (f s).addr = s.addr ∨ crc8 (bytesOf (f s).addr) = 0#8
  presence : ∀ s, (f s).presence = s.presence
  hid      : ∀ s, (f s).hid = s.hid
  inputs   : ∀ l s, f (State.withInputs l s) = (f s).withInputs l

theorem OwnResults.none (i : Instr) : OwnResults i id := by
  constructor <;> simp [State.withInputs]

theorem OwnResults.bitFlag {i : Instr} (hi : writesBit i = true) (b : Bool) : OwnResults i (State.setBitFlag b) := by
  constructor <;> simp [State.withInputs, hi, State.setBitFlag]

theorem OwnResults.dataByte (v : Byte) : OwnResults .rbyte fun s => { s with data := v } := by
  constructor <;> simp [State.withInputs, writesData]

theorem OwnResults.bufBytes (n : BitVec 4) (r : List Byte) :
    OwnResults (.rbytes n) fun s => { s with buf := storeBytes s.buf 0 r } := by
  constructor <;> simp [State.withInputs, writesBuf]

theorem OwnResults.crcByte (n : BitVec 4) :
    OwnResults (.crc n) fun s => { s with crc := crc8 (s.bufPrefix n.toNat) } := by
  constructor <;> simp [State.withInputs, writesCrc, State.bufPrefix]

/-- R170: the address read has the bytes that were checked. -/
theorem OwnResults.address {r : List Byte} (hlen : r.length = 8) (hcrc : crc8 r = 0#8) :
    OwnResults .readRom fun s => { s with addr := addrOfBytes r } := by
  constructor <;> simp [State.withInputs, writesAddr, bytesOf_addrOfBytes r hlen, hcrc]

theorem OwnResults.search {i : Instr} (hi : writesAddr i = true ∧ writesConflict i = true) {addr : Word64}
    (hcrc : crc8 (bytesOf addr) = 0#8) (wmask : Word64) : OwnResults i (State.commitSearch addr wmask) := by
  constructor <;> simp [State.withInputs, hi, hcrc, State.commitSearch]

theorem OwnResults.scratchpad (am : AddrMode) (r : List Byte) (idx : BitVec 2) :
    OwnResults (.readSp am) (State.commitScratchpad r idx) := by
  constructor <;> simp [State.withInputs, writesBuf, writesRes, State.commitScratchpad]

/-! ### The operations: a procedure that returns what is to be committed, then the commit (R242, R263) -/

/-- `body` is a procedure that returns what `modify` then writes, something `R` holds of. -/
def Commits (W : Prop) (R : (State → State) → Prop) (body : Op Unit) : Prop :=
  ∃ p : Op (State → State), body = p >>= modify ∧ Built W true true R p

section Bodies

variable {W : Prop} {R : (State → State) → Prop}

theorem Commits.nothing {x : Op Unit} (hx : Built W true true (fun _ => True) x) (hR : R id) : Commits W R x :=
  ⟨x >>= fun _ => pure id, by simp, .seq hx fun _ _ => .ret hR⟩

theorem Commits.result {α : Type} {P : α → Prop} {x : Op α} {g : α → State → State} (hx : Built W true true P x)
    (hR : ∀ v, P v → R (g v)) : Commits W R (x >>= fun v => modify (g v)) :=
  ⟨x >>= fun v => pure (g v), by simp, .seq hx fun v hv => .ret (hR v hv)⟩

theorem Commits.after {α : Type} {P : α → Prop} {x : Op α} {body : Op Unit} (hx : Built W true true P x)
    (hbody : Commits W R body) : Commits W R (x >>= fun _ => body) := by
  obtain ⟨p, rfl, hp⟩ := hbody
  exact ⟨x >>= fun _ => p, by simp, .seq hx fun _ _ => hp⟩

theorem Commits.fail {e : OpError} (he : e.reportable) : Commits W R (raise e) := ⟨raise e, rfl, .fail he⟩

theorem Commits.withCount {i : Instr} {n : BitVec 4} {body : Op Unit} (hbody : Commits W R body) :
    Commits W R (withCount i n body) := by
  unfold Sys2Proof.Machine.withCount
  split
  · exact hbody
  · exact .fail trivial

theorem Commits.functionFrame {am : AddrMode} (hW : am ≠ .noAddr → W) {check body : Op Unit} (c : Byte)
    (hcheck : Built W true true (fun _ => True) check) (hbody : Commits W R body) :
    Commits W R (functionFrame am check c body) :=
  .after (addrOperandCheck_built am) <| .after hcheck <| .after (addressing_built hW) <|
  .after (writeByte_built c) hbody

/-- The polls of a recall, with what a sampled 1 commits (R215). -/
def pollResult : Nat → Op (State → State)
  | 0 => raise .timeout
  | n + 1 => do
    let b ← readBit Config.profile
    if b then pure (State.setBitFlag true) else pollResult n

theorem pollFrom_eq (n : Nat) : pollFrom n = pollResult n >>= modify := by
  induction n with
  | zero => rfl
  | succ n ih =>
    rw [pollFrom, pollResult, bind_assoc]
    congr 1
    funext b
    cases b <;> simp [ih]

theorem Commits.poll (hR : R (State.setBitFlag true)) (n : Nat) : Commits W R (pollFrom n) := by
  refine ⟨pollResult n, pollFrom_eq n, ?_⟩
  induction n with
  | zero => exact .fail trivial
  | succ n ih =>
    refine .seq (readBit_built _) fun b _ => ?_
    cases b with
    | false => exact ih
    | true => exact .ret hR

/-- Nine bytes with a valid CRC and configuration byte (R224). -/
def readSpResult : Op (State → State) := do
  let r ← busRead 9
  checkCrc r
  let idx ← validateConfig (r.getD 4 0#8)
  pure (State.commitScratchpad r idx)

theorem Commits.readSpTail (hR : ∀ r idx, R (State.commitScratchpad r idx)) : Commits W R readSpTail :=
  ⟨readSpResult, by simp [Sys2Proof.Machine.readSpTail, readSpResult],
    .seq (busRead_built 9) fun r _ => .seq (checkCrc_built (Q := fun _ => True) fun _ => trivial)
    fun _ _ => .seq (validateConfig_built _) fun idx _ => .ret (hR r idx)⟩

/-- Eight bytes with a valid CRC (R170). -/
def readRomResult : Op (State → State) := do
  prologue
  writeByte 0x33#8
  let r ← busRead 8
  checkCrc r
  pure fun s => { s with addr := addrOfBytes r }

theorem Commits.readRom (hW : W) (hR : ∀ r, r.length = 8 → crc8 r = 0#8 → R fun s => { s with addr := addrOfBytes r }) :
    Commits W R readRomBody :=
  ⟨readRomResult, by simp [readRomBody, readRomResult],
    .seq (prologue_built hW) fun _ _ => .seq (writeByte_built _) fun _ _ => .seq (busRead_built 8) fun r hlen =>
    .seq (checkCrc_built (Q := fun _ => crc8 r = 0#8) id) fun _ hcrc => .ret (hR r hlen hcrc)⟩

/-- An address with a valid CRC and the mask of its pass (R190). -/
def searchResult (cmdByte : Byte) : Op (State → State) := do
  startPass
  let s ← get
  prologue
  writeByte cmdByte
  let r ← searchFrom s.conflict (highestSet s.conflict) 64 0 0#64 s.conflict
  checkCrc (bytesOf r.1)
  pure (State.commitSearch r.1 r.2)

theorem Commits.search (hW : W) (c : Byte)
    (hR : ∀ addr wmask, crc8 (bytesOf addr) = 0#8 → R (State.commitSearch addr wmask)) :
    Commits W R (searchBody c) :=
  ⟨searchResult c, by simp [searchBody, searchResult],
    .seq startPass_built fun _ _ => .read (fun _ _ => rfl) fun s => .seq (prologue_built hW) fun _ _ =>
    .seq (writeByte_built _) fun _ _ => .seq (searchFrom_built _ _ _ _ _ _) fun r _ =>
    .seq (checkCrc_built (Q := fun _ => crc8 (bytesOf r.1) = 0#8) id) fun _ hcrc => .ret (hR _ _ hcrc)⟩

end Bodies

/-- Every operation runs a procedure and commits its own results. -/
theorem exec_commits (i : Instr) :
    ∃ body, exec i = operation (encode i) body ∧ Commits (hasInitSeq i = true) (OwnResults i) body := by
  have hnone := OwnResults.none i
  have hbit := fun hi => OwnResults.bitFlag (i := i) hi
  have hfn : ∀ am : AddrMode, am ≠ .noAddr → (am != .noAddr) = true := fun _ => bne_iff_ne.2
  cases i with
  | nop => exact ⟨_, rfl, .nothing (.ret trivial) hnone⟩
  | init => exact ⟨_, rfl, .nothing (.seq (initSeq_built rfl _) fun _ _ => .ret trivial) hnone⟩
  | rbit => exact ⟨_, rfl, .result (readBit_built _) fun b _ => hbit rfl b⟩
  | wbit b => exact ⟨_, rfl, .nothing (writeBit_built _ b) hnone⟩
  | rbyte => exact ⟨_, rfl, .result readByte_built fun v _ => OwnResults.dataByte v⟩
  | wbyte v => exact ⟨_, rfl, .nothing (writeByte_built v) hnone⟩
  | rbytes n => exact ⟨_, rfl, .withCount <| .result (busRead_built _) fun r _ => OwnResults.bufBytes n r⟩
  | wbytes n =>
    exact ⟨_, rfl, .withCount <| .nothing (.read (fun _ _ => rfl) fun _ => busWrite_built _) hnone⟩
  | crc n => exact ⟨_, rfl, .withCount <| ⟨pure _, rfl, .ret (OwnResults.crcByte n)⟩⟩
  | crcchk n =>
    exact ⟨_, rfl, .withCount <|
      .nothing (.read (fun _ _ => rfl) fun _ => checkCrc_built fun _ => trivial) hnone⟩
  | readRom => exact ⟨_, rfl, .readRom rfl fun _ => OwnResults.address⟩
  | matchRom => exact ⟨_, rfl, .nothing (.seq checkAddr_built fun _ _ => matchStep_built rfl) hnone⟩
  | skipRom => exact ⟨_, rfl, .nothing (skipStep_built rfl) hnone⟩
  | searchRom => exact ⟨_, rfl, .search rfl _ fun _ w h => OwnResults.search ⟨rfl, rfl⟩ h w⟩
  | alarmSearch => exact ⟨_, rfl, .search rfl _ fun _ w h => OwnResults.search ⟨rfl, rfl⟩ h w⟩
  | convertT am =>
    exact ⟨_, rfl, .functionFrame (hfn am) _ (.ret trivial) (.nothing (.ret trivial) hnone)⟩
  | recallE2 am => exact ⟨_, rfl, .functionFrame (hfn am) _ (.ret trivial) (.poll (hbit rfl true) _)⟩
  | readPower am =>
    exact ⟨_, rfl, .functionFrame (hfn am) _ (.ret trivial)
      (.result (readBit_built _) fun b _ => hbit rfl b)⟩
  | copySp am => exact ⟨_, rfl, .functionFrame (hfn am) _ (.ret trivial) (.nothing (.wait _) hnone)⟩
  | readSp am =>
    exact ⟨_, rfl, .functionFrame (hfn am) _ (.ret trivial) (.readSpTail (OwnResults.scratchpad am))⟩
  | writeSp am =>
    exact ⟨_, rfl, .functionFrame (hfn am) _ bufConfigCheck_built
      (.nothing (.read (fun _ _ => rfl) fun _ => busWrite_built _) hnone)⟩

end Sys2Proof.Machine

/-! ## What a run of a procedure can do to the state (R41, R43, R123, R131, R264, R291) -/

namespace Sys2Proof.Machine

/-- Between two points of one operation: no register and no flag changed, the presence latch only by an initialization
sequence (`W`), and no `rst` came into the inputs. -/
structure Ran (W : Prop) (s t : State) : Prop where
  working : Working s t
  latch   : ¬ W → t.hid.presence = s.hid.presence
  noRst   : s.noRst → t.noRst

/-- The line is released, if that is known (`a`). -/
def State.released (a : Bool) (s : State) : Prop := a = true → s.owDriveLow = false

/-- How a run that started in `s` ended: returned, with a value of `Q`; with an error; waiting, before the line was
driven; or abandoned by an `rst` that was to come. -/
def RunsTo {α : Type} (W : Prop) (a b : Bool) (Q : α → Prop) (s : State) : EStateM.Result Stop State α → Prop
  | .ok v t => Q v ∧ Ran W s t ∧ (s.released a → t.released b)
  | .error (.raised e) t => e.reportable ∧ Ran W s t
  | .error .waiting t => W ∧ Ran W s t ∧ t.seq = .waitHigh ∧ (s.released a → t.owDriveLow = false)
  | .error .rst t => ¬ s.noRst ∧ ∃ u : State, t = u.afterRst

section

variable {W : Prop} {a b c : Bool}

theorem Ran.refl (s : State) : Ran W s s := ⟨Working.refl s, fun _ => rfl, id⟩

theorem Ran.trans {s t u : State} (h : Ran W s t) (k : Ran W t u) : Ran W s u :=
  ⟨h.working.trans k.working, fun hW => (k.latch hW).trans (h.latch hW), fun hs => k.noRst (h.noRst hs)⟩

/-- What follows a part of a run that returned. -/
theorem RunsTo.of_ran {α : Type} {Q : α → Prop} {s t : State} {r : EStateM.Result Stop State α} (h : Ran W s t)
    (hline : s.released a → t.released b) (hr : RunsTo W b c Q t r) : RunsTo W a c Q s r := by
  match r with
  | .ok v u =>
    obtain ⟨hv, hran, hu⟩ := hr
    exact ⟨hv, h.trans hran, fun hs => hu (hline hs)⟩
  | .error (.raised e) u =>
    obtain ⟨he, hran⟩ := hr
    exact ⟨he, h.trans hran⟩
  | .error .waiting u =>
    obtain ⟨hW, hran, hseq, hu⟩ := hr
    exact ⟨hW, h.trans hran, hseq, fun hs => hu (hline hs)⟩
  | .error .rst u =>
    obtain ⟨hrst, hu⟩ := hr
    exact ⟨fun hs => hrst (h.noRst hs), hu⟩

/-- An early end says nothing of the value, nor of the line after. -/
theorem RunsTo.error {α β : Type} {P : α → Prop} {Q : β → Prop} {s t : State} {e : Stop}
    (h : RunsTo W a b P s (.error e t : EStateM.Result Stop State α)) :
    RunsTo W a c Q s (.error e t : EStateM.Result Stop State β) := by
  cases e with
  | raised e => exact h
  | waiting => exact h
  | rst => exact h

theorem RunsTo.bind {α β : Type} {P : α → Prop} {Q : β → Prop} {x : Op α} {f : α → Op β} {s : State}
    (hx : RunsTo W a b P s (x s)) (hf : ∀ v, P v → ∀ t, RunsTo W b c Q t (f v t)) :
    RunsTo W a c Q s ((x >>= f) s) := by
  match hs : x s with
  | .ok v t =>
    rw [op_bind_ok hs]
    rw [hs] at hx
    obtain ⟨hv, hran, hline⟩ := hx
    exact .of_ran hran hline (hf v hv t)
  | .error e t =>
    rw [op_bind_error hs]
    rw [hs] at hx
    exact hx.error

theorem RunsTo.ok {α : Type} {Q : α → Prop} {s t : State} {v : α} (hv : Q v) (h : Ran W s t)
    (hline : s.released a → t.released b) : RunsTo W a b Q s (.ok v t) := ⟨hv, h, hline⟩

/-! ### The parts -/

/-- Inputs taken, registers read. -/
theorem ran_of_inputs {s t : State} (hw : Working s t) (hhid : t.hid = s.hid) (hin : ∀ x ∈ t.inputs, x ∈ s.inputs) :
    Ran W s t := ⟨hw, fun _ => by rw [hhid], fun hs x hx => hs x (hin x hx)⟩

/-- The next input taken, what it does to the host's side done. -/
theorem ran_next_input {s t : State} {x : Input} {rest : List Input} (hi : s.inputs = x :: rest) (hw : Working s t)
    (hhid : t.hid = s.hid) (ht : t.inputs = rest) : Ran W s t :=
  ran_of_inputs hw hhid fun y hy => by rw [hi]; exact List.mem_cons_of_mem x (ht ▸ hy)

theorem not_noRst {s : State} {t : Nat} {rest : List Input} (hi : s.inputs = .during (.rst t) :: rest) : ¬ s.noRst :=
  fun h => by simpa [Input.isRst] using h (.during (.rst t)) (by simp [hi])

theorem settleFrom_runsTo (left : Nat) (l : List Input) {s : State} (hi : s.inputs = l) :
    RunsTo W a a (fun _ => True) s (settleFrom left l s) := by
  induction l generalizing s with
  | nil => exact .ok trivial (.refl s) id
  | cons x rest ih =>
    match x with
    | .pins p => exact .ok trivial (.refl s) id
    | .host h => exact .ok trivial (.refl s) id
    | .during (.rst t) => exact ⟨not_noRst hi, _, rfl⟩
    | .during (.write off d) =>
      exact .of_ran (t := { s with inputs := rest }) (ran_next_input hi (by constructor <;> rfl) rfl rfl) id (ih rfl)
    | .during (.read off) =>
      exact .of_ran (t := { s with inputs := rest }.readReg off)
        (ran_next_input hi (by constructor <;> rfl) rfl rfl) id (ih rfl)

theorem settle_runsTo (left : Nat) (s : State) : RunsTo W a a (fun _ => True) s (settle left s) :=
  settleFrom_runsTo left s.inputs rfl

theorem look_ran (s : State) : Ran W s s.look.2 := by
  unfold State.look
  split
  next hi => exact ran_next_input hi (by constructor <;> rfl) rfl rfl
  next => exact ran_of_inputs (by constructor <;> rfl) rfl fun _ => id

/-- R126: a fault leaves the line as it is; the end of the operation releases it. -/
theorem pinEvent_runsTo {act : Bool → State → State} (hact : ∀ l u, Ran W u (act l u))
    (hline : ∀ l u, u.released a → (act l u).released b) (s : State) :
    RunsTo W a b (fun _ => True) s (pinEvent act s) := by
  have h := settle_runsTo (W := W) (a := a) 0 s
  unfold pinEvent
  match hs : settle 0 s with
  | .error e t => rw [hs] at h; exact h.error
  | .ok _ t =>
    rw [hs] at h
    obtain ⟨-, hran, ht⟩ := h
    have hlook : s.released a → t.look.2.released a := fun h1 h2 => (look_owDriveLow t).trans (ht h1 h2)
    by_cases hp : t.look.1.pinFault = true
    · simp only [hp, if_true]
      exact ⟨trivial, (hran.trans (look_ran t)).trans ⟨emit_working _ _, fun _ => rfl, id⟩⟩
    · simp only [hp]
      exact .ok trivial ((hran.trans (look_ran t)).trans (hact _ _)) fun h => hline _ _ (hlook h)

theorem pinLow_runsTo (s : State) : RunsTo W a false (fun _ => True) s (pinLow s) :=
  .bind (b := false)
    (pinEvent_runsTo (b := false) (fun _ u => ⟨driveLow_working u, fun _ => rfl, id⟩) (fun _ _ _ => nofun) s)
    fun _ _ t => .ok trivial (.refl t) id

theorem pinRelease_runsTo (s : State) : RunsTo W a true (fun _ => True) s (pinRelease s) :=
  .bind (b := true)
    (pinEvent_runsTo (fun _ u => ⟨releaseLine_working u, fun _ => rfl, id⟩) (fun _ _ _ _ => rfl) s)
    fun _ _ t => .ok trivial (.refl t) id

theorem pinSample_runsTo (s : State) : RunsTo W a a (fun _ => True) s (pinSample s) :=
  pinEvent_runsTo (fun _ u => ⟨emit_working _ u, fun _ => rfl, id⟩) (fun _ _ => id) s

theorem delay_runsTo (t : Nat) (s : State) : RunsTo W a a (fun _ => True) s (delay t s) :=
  .bind (settle_runsTo t s) fun _ _ u => .ok trivial ⟨emit_working _ u, fun _ => rfl, id⟩ id

theorem awaitFrom_runsTo (hW : W) (l : List Input) {s : State} (hi : s.inputs = l) (hseq : s.seq = .waitHigh) :
    RunsTo W true true (fun _ => True) s (awaitFrom l s) := by
  have hwait : ∀ {t : State}, t.seq = .waitHigh → RunsTo W true true (fun _ : Unit => True) t (.error .waiting t) :=
    fun hq => ⟨hW, .refl _, hq, fun h => h rfl⟩
  induction l generalizing s with
  | nil => exact hwait hseq
  | cons x rest ih =>
    have hskip : ∀ {t : State}, Ran W s t → t.owDriveLow = s.owDriveLow → t.inputs = rest → t.seq = .waitHigh →
        RunsTo W true true (fun _ => True) s (awaitFrom rest t) := fun hran hl hin hq =>
      .of_ran hran (fun h h' => hl.trans (h h')) (ih hin hq)
    have hnext : ∀ {t : State}, Working s t → t.hid = s.hid → t.inputs = rest → Ran W s t := ran_next_input hi
    match x with
    | .host h => exact hwait hseq
    | .during (.rst t) => exact ⟨not_noRst hi, _, rfl⟩
    | .during (.write off d) => exact hskip (hnext (by constructor <;> rfl) rfl rfl) rfl rfl hseq
    | .during (.read off) => exact hskip (hnext (by constructor <;> rfl) rfl rfl) rfl rfl hseq
    | .pins p =>
      unfold awaitFrom
      by_cases hp : p.pinFault = true
      · simp only [hp, if_true]
        exact ⟨trivial, hnext (by constructor <;> rfl) rfl rfl⟩
      · by_cases hl : p.owIn = true
        · simp only [hp, hl, if_true]
          exact .ok trivial (hnext (by constructor <;> rfl) rfl rfl) id
        · simp only [hp, hl]
          exact hskip (hnext (by constructor <;> rfl) rfl rfl) rfl rfl hseq

theorem awaitHigh_runsTo (hW : W) (s : State) : RunsTo W true true (fun _ => True) s (awaitHigh s) :=
  .of_ran (t := { s with seq := .waitHigh }) ⟨by constructor <;> rfl, fun _ => rfl, id⟩ id
    (awaitFrom_runsTo hW s.inputs rfl rfl)

/-- Whatever the procedure, the line and the host do, a run ends in one of the four ways. -/
theorem Built.runsTo {α : Type} {Q : α → Prop} {x : Op α} (h : Built W a b Q x) (s : State) :
    RunsTo W a b Q s (x s) := by
  induction h generalizing s with
  | ret hv => exact .ok hv (.refl s) id
  | fail he => exact ⟨he, .refl s⟩
  | seq _ _ ihx ihf => exact .bind (ihx s) ihf
  | read _ _ ihf => exact .bind (P := fun _ => True) (.ok trivial (.refl s) id) fun v _ t => ihf v t
  | setHidden _ hlatch =>
    exact .ok trivial ⟨setSeqHid_working s.seq _ s, fun hW => (hlatch.resolve_left hW) s, id⟩ id
  | wait t => exact delay_runsTo t s
  | low => exact pinLow_runsTo s
  | release => exact pinRelease_runsTo s
  | sample => exact pinSample_runsTo s
  | await hW => exact awaitHigh_runsTo hW s

end

/-! ### How an operation ends -/

/-- Everything an operation can do: success with its own results, an error, the wait for the line, `rst`. -/
theorem exec_cases {i : Instr} {s t : State} (h : exec i s = .next t) :
    (∃ f u, OwnResults i f ∧ Ran (hasInitSeq i = true) (s.accept (encode i)) u ∧ t = (f u).finishOk)
      ∨ (∃ e u, e.reportable ∧ Ran (hasInitSeq i = true) (s.accept (encode i)) u ∧ t = u.raiseError e)
      ∨ (hasInitSeq i = true ∧ Working (s.accept (encode i)) t ∧ t.seq = .waitHigh
          ∧ (s.owDriveLow = false → t.owDriveLow = false))
      ∨ (¬ s.noRst ∧ ∃ u : State, t = u.afterRst) := by
  obtain ⟨_, hexec, p, rfl, hp⟩ := exec_commits i
  obtain rfl : s.operate (encode i) (p >>= modify) = t := by
    rw [hexec] at h
    exact Host.Outcome.next.inj h
  have hruns := hp.runsTo (s.accept (encode i))
  match hr : p (s.accept (encode i)) with
  | .ok f u =>
    rw [hr] at hruns
    obtain ⟨hf, hran, -⟩ := hruns
    exact .inl ⟨f, u, hf, hran, by rw [State.operate, op_bind_ok hr, op_modify]⟩
  | .error (.raised e) u =>
    rw [hr] at hruns
    obtain ⟨he, hran⟩ := hruns
    exact .inr (.inl ⟨e, u, he, hran, by rw [State.operate, op_bind_error hr]⟩)
  | .error .waiting u =>
    rw [hr] at hruns
    obtain ⟨hW, hran, hseq, hline⟩ := hruns
    rw [State.operate, op_bind_error hr]
    exact .inr (.inr (.inl ⟨hW, hran.working, hseq, fun h => hline fun _ => h⟩))
  | .error .rst u =>
    rw [hr] at hruns
    obtain ⟨hrst, hu⟩ := hruns
    rw [State.operate, op_bind_error hr]
    exact .inr (.inr (.inr ⟨hrst, hu⟩))

/-- The word of an operation with an initialization sequence is legal. -/
theorem decode_encode_of_hasInitSeq {i : Instr} (h : hasInitSeq i = true) : decode (encode i) = .ok i := by
  cases i with
  | init | readRom | matchRom | skipRom | searchRom | alarmSearch => decide
  | convertT am | recallE2 am | readPower am | copySp am | readSp am | writeSp am => cases am <;> decide
  | _ => cases h

/-! ### The invariant, an idle OWM -/

theorem inv_exec {i : Instr} {s t : State} (hline : s.owDriveLow = false) (h : exec i s = .next t) : t.Inv := by
  obtain ⟨f, u, -, -, rfl⟩ | ⟨e, u, he, -, rfl⟩ | ⟨hi, hw, hseq, ht⟩ | ⟨-, u, rfl⟩ := exec_cases h
  · exact inv_finishOk _
  · exact inv_raiseError he u
  · refine inv_of_no_indication ⟨hw.done, hw.err, hw.ecode, hw.einfo⟩ ?_ (fun h => by simp [ht hline] at h)
      fun c hc => by simp [hseq] at hc
    rw [State.seqOk, hw.cmd, State.accept_cmd, decode_encode_of_hasInitSeq hi, hseq]
    trivial
  · exact inv_afterRst u

/-- R42: a write to a register touches no part of the invariant. -/
theorem inv_storeReg {s : State} (h : s.Inv) (off : BitVec 4) (w : Word) : (s.storeReg off w).Inv := by
  unfold State.storeReg
  repeat' split
  all_goals exact inv_congr h rfl rfl rfl rfl rfl rfl rfl rfl

theorem inv_hostEvent {ev : HostEvent} {s t : State} (h : s.Inv) (hline : s.owDriveLow = false)
    (ht : hostEvent ev s = .next t) : t.Inv := by
  cases ev with
  | rst n => cases ht; exact inv_afterRst s
  | read off => cases ht; exact inv_congr h rfl rfl rfl rfl rfl rfl rfl rfl
  | write off w =>
    unfold hostEvent at ht
    simp only at ht
    split at ht
    · unfold command at ht
      split at ht
      · exact inv_exec hline ht
      · cases ht
        exact inv_raiseError (e := .illegalCommand (opcOf w)) trivial _
    · cases ht
      exact inv_storeReg h off w

theorem inv_idleStep {s t : State} (h : s.Inv) (hline : s.owDriveLow = false) (ht : idleStep s = .next t) : t.Inv := by
  have hin : ∀ l, State.Inv { s with inputs := l } := fun l => inv_congr h rfl rfl rfl rfl rfl rfl rfl rfl
  unfold idleStep at ht
  split at ht
  next => cases ht; exact h
  next => cases ht; exact hin _
  next ev rest _ => exact inv_hostEvent (s := { s with inputs := rest }) (hin rest) hline ht
  next ev rest _ => exact inv_hostEvent (s := { s with inputs := rest }) (hin rest) hline ht

theorem seq_idle_of_not_busy {s : State} (h : s.busy = false) : s.seq = .idle := by
  unfold State.busy at h
  cases hq : s.seq <;> simp_all [Seq.busy]

/-- Settles O16: a busy OWM makes a move that keeps it, an idle one ends in a state that has it. -/
theorem stepKeepsTheInvariant : Obligations.StepKeepsTheInvariant := by
  intro s t h hstep
  cases hs : s.busy with
  | true =>
    rw [step_of_busy hs] at hstep
    cases hstep
    exact inv_tick h hs
  | false =>
    rw [step_of_idle hs] at hstep
    have ⟨_, _, hline, _⟩ := h
    have hidle := seq_idle_of_not_busy hs
    exact inv_idleStep h (released_of_no_slot hline (by rw [hidle]; rfl) (by rw [hidle]; rfl)) hstep

end Sys2Proof.Machine

/-! ## What an operation leaves (R21 to R27, R47, R263, R264) -/

namespace Sys2Proof.Machine

/-- Settles O17: only a checked address is committed, and `rst` puts 0, whose bytes have CRC 0. -/
theorem addressesWrittenPassTheirCheck : Obligations.AddressesWrittenPassTheirCheck := by
  intro i s t h
  obtain ⟨f, u, hf, hran, rfl⟩ | ⟨e, u, -, hran, rfl⟩ | ⟨-, hw, -⟩ | ⟨-, u, rfl⟩ := exec_cases h
  · simpa [hran.working.addr] using hf.checked u
  · exact .inl hran.working.addr
  · exact .inl hw.addr
  · exact .inr (show crc8 (bytesOf 0#64) = 0#8 by decide +kernel)

/-- The latch is empty at the end of an operation without an initialization sequence (R240, R264). -/
theorem latch_none {i : Instr} {w : Word} {s u : State} (hi : hasInitSeq i = false)
    (h : Ran (hasInitSeq i = true) (s.accept w) u) : u.hid.presence = none := h.latch (by simp [hi])

/-- Settles O19: success commits the operation's own results, the other ends none. -/
theorem operationWritesOnlyItsOwnResults : Obligations.OperationWritesOnlyItsOwnResults := by
  intro i s t hrst h
  obtain ⟨f, u, hf, hran, rfl⟩ | ⟨e, u, -, hran, rfl⟩ | ⟨hinit, hw, -⟩ | ⟨hbad, -⟩ := exec_cases h
  · have hw := hran.working
    exact ⟨fun hi => (hf.addr hi u).trans hw.addr,
      fun hi => ⟨(hf.conflict hi u).trans hw.conflict, (hf.last hi u).trans hw.last⟩,
      fun hi => (hf.data hi u).trans hw.data, fun hi => (hf.crc hi u).trans hw.crc,
      fun hi => (hf.buf hi u).trans hw.buf, fun hi => (hf.bit hi u).trans hw.bit,
      fun hi => (hf.res hi u).trans hw.res,
      fun hi => by simp [hf.hid, hf.presence, latch_none hi hran, hw.presence]⟩
  · have hw := hran.working
    exact ⟨fun _ => hw.addr, fun _ => ⟨hw.conflict, hw.last⟩, fun _ => hw.data, fun _ => hw.crc, fun _ => hw.buf,
      fun _ => hw.bit, fun _ => hw.res, fun hi => by simp [latch_none hi hran, hw.presence]⟩
  · exact ⟨fun _ => hw.addr, fun _ => ⟨hw.conflict, hw.last⟩, fun _ => hw.data, fun _ => hw.crc, fun _ => hw.buf,
      fun _ => hw.bit, fun _ => hw.res, fun _ => hw.presence⟩
  · exact absurd hrst hbad

/-! ## Host writes while an operation runs (R41) -/

/-- The inputs but for the writes that met the operation. -/
def heard (l : List Input) : List Input := l.filter fun x => !x.isBusyWrite

/-- A result with those writes taken out of the remaining inputs. -/
def dropBusyWrites {α : Type} : EStateM.Result Stop State α → EStateM.Result Stop State α
  | .ok v t => .ok v t.withoutBusyWrites
  | .error e t => .error e t.withoutBusyWrites

/-- Writes that meet the procedure do not matter to it. -/
def IgnoresWrites {α : Type} (x : Op α) : Prop := ∀ s, x s.withoutBusyWrites = dropBusyWrites (x s)

theorem bind_ignoresWrites {α β : Type} {x : Op α} {f : α → Op β} {s : State}
    (hx : x s.withoutBusyWrites = dropBusyWrites (x s))
    (hf : ∀ v t, x s = .ok v t → f v t.withoutBusyWrites = dropBusyWrites (f v t)) :
    (x >>= f) s.withoutBusyWrites = dropBusyWrites ((x >>= f) s) := by
  match hs : x s with
  | .ok v t => rw [hs] at hx; rw [op_bind_ok hs, op_bind_ok hx, hf v t hs]
  | .error e t => rw [hs] at hx; rw [op_bind_error hs, op_bind_error hx]; rfl

theorem withoutBusyWrites_of_inputs {s : State} {l : List Input} (hi : s.inputs = l) :
    s.withoutBusyWrites = { s with inputs := heard l } := by
  subst hi; rfl

/-- `rst` shows as much of the trace with the writes as without them. -/
theorem abandon_heard (left t : Nat) (s : State) (rest : List Input) :
    { s with inputs := heard rest }.abandon left t = ({ s with inputs := rest }.abandon left t).withoutBusyWrites := by
  unfold State.abandon State.emitPart
  split <;> rfl

theorem settleFrom_ignoresWrites (left : Nat) (l : List Input) {s : State} (hi : s.inputs = l) :
    settleFrom left (heard l) s.withoutBusyWrites = dropBusyWrites (settleFrom left l s) := by
  induction l generalizing s with
  | nil => rfl
  | cons x rest ih =>
    rw [withoutBusyWrites_of_inputs hi]
    match x with
    | .pins p => exact congrArg _ (withoutBusyWrites_of_inputs hi).symm
    | .host h => exact congrArg _ (withoutBusyWrites_of_inputs hi).symm
    | .during (.rst t) =>
      exact congrArg (EStateM.Result.error Stop.rst) (abandon_heard left t s rest)
    | .during (.write off d) => exact ih (s := { s with inputs := rest }) rfl
    | .during (.read off) => exact ih (s := { s with inputs := rest }.readReg off) rfl

theorem settle_ignoresWrites (left : Nat) : IgnoresWrites (settle left) := fun s =>
  settleFrom_ignoresWrites left s.inputs rfl

/-- Where host events have been taken in, none comes next. -/
theorem settleFrom_ok_inputs (left : Nat) (l : List Input) {s t : State} (hi : s.inputs = l)
    (h : settleFrom left l s = .ok () t) (ev : HostEvent) (rest : List Input) : t.inputs ≠ .during ev :: rest := by
  induction l generalizing s with
  | nil => cases h; simp [hi]
  | cons x r ih =>
    match x with
    | .pins p => cases h; simp [hi]
    | .host e => cases h; simp [hi]
    | .during (.rst n) => cases h
    | .during (.write off d) => exact ih (s := { s with inputs := r }) rfl h
    | .during (.read off) =>
      have hread : settleFrom left r ({ s with inputs := r }.readReg off) = .ok () t := h
      exact ih rfl hread

/-- A look where no host event comes next sees the same. -/
theorem look_withoutBusyWrites {s : State} (h : ∀ ev rest, s.inputs ≠ .during ev :: rest) :
    s.withoutBusyWrites.look = (s.look.1, s.look.2.withoutBusyWrites) := by
  match hi : s.inputs with
  | [] => simp only [State.look, State.withoutBusyWrites, hi]; rfl
  | .pins p :: rest => simp only [State.look, State.withoutBusyWrites, hi]; rfl
  | .host ev :: rest => simp only [State.look, State.withoutBusyWrites, hi]; rfl
  | .during ev :: rest => exact absurd hi (h ev rest)

theorem pinEvent_ignoresWrites {act : Bool → State → State}
    (hact : ∀ b (s : State), act b s.withoutBusyWrites = (act b s).withoutBusyWrites) :
    IgnoresWrites (pinEvent act) := by
  intro s
  have h := settle_ignoresWrites 0 s
  unfold pinEvent
  match hs : settle 0 s with
  | .error e t => rw [hs] at h; rw [h]; rfl
  | .ok _ t =>
    rw [hs] at h
    have hlook := look_withoutBusyWrites (settleFrom_ok_inputs 0 s.inputs rfl hs)
    rw [h]
    simp only [dropBusyWrites, hlook]
    split
    · rfl
    · rw [hact]

theorem awaitFrom_ignoresWrites (l : List Input) {s : State} (hi : s.inputs = l) :
    awaitFrom (heard l) s.withoutBusyWrites = dropBusyWrites (awaitFrom l s) := by
  induction l generalizing s with
  | nil => rfl
  | cons x rest ih =>
    rw [withoutBusyWrites_of_inputs hi]
    match x with
    | .host h => exact congrArg _ (withoutBusyWrites_of_inputs hi).symm
    | .during (.rst t) => exact congrArg (EStateM.Result.error Stop.rst) (abandon_heard 0 t s rest)
    | .during (.write off d) => exact ih (s := { s with inputs := rest }) rfl
    | .during (.read off) => exact ih (s := { s with inputs := rest }.readReg off) rfl
    | .pins p =>
      have hcons : heard (.pins p :: rest) = .pins p :: heard rest := rfl
      have hlow := ih (s := { s with inputs := rest }) rfl
      rw [hcons]
      unfold awaitFrom
      split
      · rfl
      · split
        · rfl
        · exact hlow

theorem awaitHigh_ignoresWrites : IgnoresWrites awaitHigh := fun s =>
  awaitFrom_ignoresWrites s.inputs (s := { s with seq := .waitHigh }) rfl

theorem Built.returns {α : Type} {W : Prop} {a b : Bool} {Q : α → Prop} {x : Op α} (h : Built W a b Q x) {s t : State}
    {v : α} (hs : x s = .ok v t) : Q v := by
  have hruns := h.runsTo s
  rw [hs] at hruns
  exact hruns.1

/-- No procedure heeds the writes that meet it. -/
theorem Built.ignoresWrites {α : Type} {W : Prop} {a b : Bool} {Q : α → Prop} {x : Op α} (h : Built W a b Q x) :
    IgnoresWrites x := by
  induction h with
  | ret _ => exact fun s => rfl
  | fail _ => exact fun s => rfl
  | seq hx _ ihx ihf => exact fun s => bind_ignoresWrites (ihx s) fun v t hs => ihf v (hx.returns hs) t
  | read hin _ ihf =>
    intro s
    have hsame := hin (heard s.inputs) s
    exact (congrFun hsame s.withoutBusyWrites).trans (ihf s s)
  | setHidden hin _ =>
    intro s
    have hsame := hin (heard s.inputs) s
    exact congrArg (fun h => EStateM.Result.ok () { s.withoutBusyWrites with hid := h }) hsame
  | wait t => exact fun s => bind_ignoresWrites (settle_ignoresWrites t s) fun _ _ _ => rfl
  | low =>
    exact fun s => bind_ignoresWrites (pinEvent_ignoresWrites (act := fun _ => State.driveLow) (fun _ _ => rfl) s)
      fun _ _ _ => rfl
  | release =>
    exact fun s => bind_ignoresWrites (pinEvent_ignoresWrites (act := fun _ => State.releaseLine) (fun _ _ => rfl) s)
      fun _ _ _ => rfl
  | sample => exact pinEvent_ignoresWrites fun _ _ => rfl
  | await _ => exact awaitHigh_ignoresWrites

theorem operate_withoutBusyWrites {body : Op Unit} (h : IgnoresWrites body) (w : Word) (s : State) :
    s.withoutBusyWrites.operate w body = (s.operate w body).withoutBusyWrites := by
  have hbody : body (s.withoutBusyWrites.accept w) = dropBusyWrites (body (s.accept w)) := h (s.accept w)
  unfold State.operate
  rw [hbody]
  match body (s.accept w) with
  | .ok _ t => rfl
  | .error (.raised e) t => rfl
  | .error .waiting t => rfl
  | .error .rst t => rfl

/-- A commit writes no inputs. -/
theorem commits_ignoresWrites {W : Prop} {i : Instr} {body : Op Unit} (h : Commits W (OwnResults i) body) :
    IgnoresWrites body := by
  obtain ⟨p, rfl, hp⟩ := h
  intro s
  refine bind_ignoresWrites (hp.ignoresWrites s) fun f t hs => ?_
  have hf := (hp.returns hs).inputs
  have hin : (f t).inputs = t.inputs := (congrArg State.inputs (hf t.inputs t) :)
  calc (modify f : Op Unit) t.withoutBusyWrites
      = .ok () ((f t).withInputs (heard t.inputs)) := congrArg (EStateM.Result.ok ()) (hf (heard t.inputs) t)
    _ = dropBusyWrites ((modify f : Op Unit) t) := by rw [← hin]; rfl

/-- Settles O8: an operation is a procedure and a commit; neither heeds the writes. -/
theorem writesWhileBusyDoNotMatter : Obligations.WritesWhileBusyDoNotMatter := by
  intro i s t h
  obtain ⟨body, hexec, hbody⟩ := exec_commits i
  rw [hexec] at h ⊢
  cases h
  exact congrArg Host.Outcome.next (operate_withoutBusyWrites (commits_ignoresWrites hbody) _ s)

end Sys2Proof.Machine

/-! ## The host's register map (R25, R29, R40 to R45, R49) -/

namespace Sys2Proof.Machine

/-! ### `STATUS` (R29) -/

theorem extractLsb'_eq_of_bits {w n k : Nat} {x : BitVec w} {f : BitVec n}
    (h : ∀ j, j < n → x.getLsbD (k + j) = f.getLsbD j) : x.extractLsb' k n = f :=
  BitVec.eq_of_getLsbD_eq fun j hj => by rw [BitVec.getLsbD_extractLsb', h j hj]; simp [hj]

/-- The flags, bits 0 to 6, and the reserved bit 7. -/
theorem statusWord_flags (s : State) :
    s.statusWord.getLsbD 0 = s.busy ∧ s.statusWord.getLsbD 1 = s.done ∧ s.statusWord.getLsbD 2 = s.err
      ∧ s.statusWord.getLsbD 3 = s.presence ∧ s.statusWord.getLsbD 4 = s.bit ∧ s.statusWord.getLsbD 5 = s.last
      ∧ s.statusWord.getLsbD 6 = s.waitHigh ∧ s.statusWord.getLsbD 7 = false := by
  simp only [State.statusWord, BitVec.getLsbD_append, BitVec.getLsbD_ofBool]
  simp

/-- The fields of more than one bit. -/
theorem statusWord_fields (s : State) :
    s.statusWord.extractLsb' 8 4 = s.ecode ∧ s.statusWord.extractLsb' 12 2 = s.res
      ∧ s.statusWord.extractLsb' 16 8 = s.einfo := by
  refine ⟨?_, ?_, ?_⟩ <;> refine extractLsb'_eq_of_bits fun j hj => ?_ <;>
    simp (disch := omega) only [State.statusWord, BitVec.getLsbD_append, if_neg, if_pos] <;> congr 1 <;> omega

/-- Bits 15:14 and 31:24 are reserved. -/
theorem statusWord_reserved (s : State) :
    s.statusWord.extractLsb' 14 2 = 0#2 ∧ s.statusWord.extractLsb' 24 8 = 0#8 := by
  constructor <;> refine extractLsb'_eq_of_bits fun j hj => ?_ <;>
    simp (disch := omega) only [State.statusWord, BitVec.getLsbD_append, if_neg, if_pos, BitVec.getLsbD_zero]

/-- Settles O14: field by field. -/
theorem statusBitsAreWhereTheTableSays : Obligations.StatusBitsAreWhereTheTableSays := fun s =>
  have ⟨hbusy, hdone, herr, hpresence, hbit, hlast, hwait, h7⟩ := statusWord_flags s
  have ⟨hecode, hres, heinfo⟩ := statusWord_fields s
  have ⟨hlow, hhigh⟩ := statusWord_reserved s
  ⟨hbusy, hdone, herr, hpresence, hbit, hlast, hwait, h7, hecode, hres, hlow, heinfo, hhigh⟩

/-- R43: without an indication only the live and the old flags show. -/
theorem statusWord_busy {s : State} (h : s.done = false ∧ s.err = false ∧ s.ecode = 0#4 ∧ s.einfo = 0#8)
    (hs : s.busy = true) :
    s.statusWord = 0#18 ++ s.res ++ 0#5 ++ BitVec.ofBool s.waitHigh ++ BitVec.ofBool s.last ++ BitVec.ofBool s.bit
      ++ BitVec.ofBool s.presence ++ 1#3 := by
  obtain ⟨hdone, herr, hecode, heinfo⟩ := h
  rw [State.statusWord, hdone, herr, hecode, heinfo, hs]
  generalize s.res = res, s.waitHigh = wait, s.last = last, s.bit = bit, s.presence = presence
  revert res wait last bit presence
  decide

/-! ### A host event that comes (R41, R43) -/

theorem busy_of_timed {s : State} (h : s.seq.timed = true) : s.busy = true := by
  unfold State.busy
  cases hq : s.seq <;> simp_all [Seq.timed, Seq.busy]

/-- Where time passes, a step takes the host event that comes. -/
theorem step_busyEvent {s : State} {ev : HostEvent} {rest : List Input} (htimed : s.seq.timed = true)
    (hi : s.inputs = .during ev :: rest) : step s = .next ({ s with inputs := rest }.busyEvent s.hid.tmr ev) := by
  rw [step_of_busy (busy_of_timed htimed), State.tick, htimed, hi]

theorem step_hostEvent {s : State} {ev : HostEvent} {rest : List Input} (hs : s.busy = false)
    (hi : s.inputs = .host ev :: rest) : step s = hostEvent ev { s with inputs := rest } := by
  rw [step_of_idle hs, idleStep, hi]

/-- Settles O7: where time passes OWM is busy, and a write that meets it is taken. -/
theorem busyOwmIgnoresHostWrites : Obligations.BusyOwmIgnoresHostWrites := fun _ _ _ _ htimed hi =>
  step_busyEvent htimed hi

/-- Settles O9: idle or busy the step is the read; while busy there is no indication to show. -/
theorem hostReadsHaveNoSideEffect : Obligations.HostReadsHaveNoSideEffect :=
  ⟨fun _ _ _ hs hi => step_hostEvent hs hi, fun _ _ _ htimed hi => step_busyEvent htimed hi,
    fun _ hinv hs => statusWord_busy (busy_indication hinv hs) hs⟩

/-- Settles O12: the sixteen offsets one by one. -/
theorem resetRegistersReadZero : Obligations.ResetRegistersReadZero := ⟨by decide, rfl, rfl⟩

/-! ### Reads and writes of the map (R40, R42) -/

theorem bufByte_eq_getElem (s : State) (k : Nat) (hk : k < 9) : s.bufByte k = s.buf[k] := by
  simp [State.bufByte, hk]

/-- R25: what a byte of `BUF` is after a write of `bytes` from `start` on. -/
theorem bufByte_storeBytes (s : State) {start k : Nat} (hk : k < 9) (bytes : List Byte) :
    { s with buf := storeBytes s.buf start bytes }.bufByte k
      = if start ≤ k ∧ k < start + bytes.length then bytes.getD (k - start) 0#8 else s.bufByte k := by
  rw [bufByte_eq_getElem _ k hk, bufByte_eq_getElem s k hk]
  simp [storeBytes]

/-- R25: a word is its four bytes, little-endian. -/
theorem bytes_append (w : Word) :
    w.extractLsb' 24 8 ++ w.extractLsb' 16 8 ++ w.extractLsb' 8 8 ++ w.extractLsb' 0 8 = w := by
  ext j hj
  simp only [BitVec.getElem_append, BitVec.getElem_extractLsb']
  split_ifs <;> simp only [← BitVec.getLsbD_eq_getElem] <;> congr 1 <;> omega

/-- R21, R22: the low word of two. -/
theorem extract_low_append (a w : Word) : (a ++ w : Word64).extractLsb' 0 32 = w :=
  (BitVec.extractLsb'_append_eq_of_add_le le_rfl).trans BitVec.extractLsb'_eq_self

/-- R21, R22: the high word of two. -/
theorem extract_high_append (a w : Word) : (a ++ w : Word64).extractLsb' 32 32 = a :=
  (BitVec.extractLsb'_append_eq_of_le le_rfl).trans BitVec.extractLsb'_eq_self

theorem hostRead_buf0 (s : State) :
    s.hostRead offBuf0 = s.bufByte 3 ++ s.bufByte 2 ++ s.bufByte 1 ++ s.bufByte 0 := rfl

theorem hostRead_buf1 (s : State) :
    s.hostRead offBuf1 = s.bufByte 7 ++ s.bufByte 6 ++ s.bufByte 5 ++ s.bufByte 4 := rfl

theorem hostRead_buf2 (s : State) : s.hostRead offBuf2 = 0#24 ++ s.bufByte 8 := rfl

/-- R42: from the last register of the map on there is nothing. -/
theorem hostRead_unmapped {off : BitVec 4} (h : 11 ≤ off.toNat) (s : State) : s.hostRead off = 0#32 := by
  have hne : ∀ k : BitVec 4, k.toNat < 11 → off ≠ k := by rintro k hk rfl; omega
  simp [State.hostRead, hne offCmd (by decide), hne offStatus (by decide), hne offData (by decide),
    hne offCrc (by decide), hne offAddrLo (by decide), hne offAddrHi (by decide), hne offConflictLo (by decide),
    hne offConflictHi (by decide), hne offBuf0 (by decide), hne offBuf1 (by decide), hne offBuf2 (by decide)]

@[simp] theorem statusWord_registers (s : State) (a c : Word64) (d : Byte) (b : Vector Byte 9) :
    { s with addr := a, conflict := c, data := d, buf := b }.statusWord = s.statusWord := rfl

@[simp] theorem bufByte_registers (s : State) (a c : Word64) (d : Byte) (k : Nat) :
    { s with addr := a, conflict := c, data := d }.bufByte k = s.bufByte k := rfl

/-- A write of one register, read back: the register itself, and every other offset. -/
structure Stores (s t : State) (off : BitVec 4) (w : Word) : Prop where
  own    : t.hostRead off = stored off w
  others : ∀ off', off' ≠ off → t.hostRead off' = s.hostRead off'

section Stores

variable (s : State) (w : Word)

theorem stores_data : Stores s (s.storeReg offData w) offData w := by
  have ht : s.storeReg offData w = { s with data := w.extractLsb' 0 8 } := rfl
  rw [ht]
  exact ⟨rfl, fun off' h => by simp [State.hostRead, h]⟩

theorem stores_addrLo : Stores s (s.storeReg offAddrLo w) offAddrLo w := by
  have ht : s.storeReg offAddrLo w = { s with addr := s.addr.extractLsb' 32 32 ++ w } := rfl
  rw [ht]
  exact ⟨extract_low_append _ w, fun off' h => by simp [State.hostRead, h, extract_high_append]⟩

theorem stores_addrHi : Stores s (s.storeReg offAddrHi w) offAddrHi w := by
  have ht : s.storeReg offAddrHi w = { s with addr := w ++ s.addr.extractLsb' 0 32 } := rfl
  rw [ht]
  exact ⟨extract_high_append w _, fun off' h => by simp [State.hostRead, h, extract_low_append]⟩

theorem stores_conflictLo : Stores s (s.storeReg offConflictLo w) offConflictLo w := by
  have ht : s.storeReg offConflictLo w = { s with conflict := s.conflict.extractLsb' 32 32 ++ w } := rfl
  rw [ht]
  exact ⟨extract_low_append _ w, fun off' h => by simp [State.hostRead, h, extract_high_append]⟩

theorem stores_conflictHi : Stores s (s.storeReg offConflictHi w) offConflictHi w := by
  have ht : s.storeReg offConflictHi w = { s with conflict := w ++ s.conflict.extractLsb' 0 32 } := rfl
  rw [ht]
  exact ⟨extract_high_append w _, fun off' h => by simp [State.hostRead, h, extract_low_append]⟩

theorem stores_buf0 : Stores s (s.storeReg offBuf0 w) offBuf0 w := by
  have ht : s.storeReg offBuf0 w = { s with buf := storeBytes s.buf 0 (wordBytes w) } := rfl
  rw [ht]
  constructor
  · have hw : stored offBuf0 w = w := rfl
    rw [hostRead_buf0, hw]
    simpa [bufByte_storeBytes, wordBytes] using bytes_append w
  · intro off' h
    simp [State.hostRead, h, bufByte_storeBytes, wordBytes]

theorem stores_buf1 : Stores s (s.storeReg offBuf1 w) offBuf1 w := by
  have ht : s.storeReg offBuf1 w = { s with buf := storeBytes s.buf 4 (wordBytes w) } := rfl
  rw [ht]
  constructor
  · have hw : stored offBuf1 w = w := rfl
    rw [hostRead_buf1, hw]
    simpa [bufByte_storeBytes, wordBytes] using bytes_append w
  · intro off' h
    simp [State.hostRead, h, bufByte_storeBytes, wordBytes]

theorem stores_buf2 : Stores s (s.storeReg offBuf2 w) offBuf2 w := by
  have ht : s.storeReg offBuf2 w = { s with buf := storeBytes s.buf 8 [w.extractLsb' 0 8] } := rfl
  rw [ht]
  constructor
  · rw [hostRead_buf2]
    simp [bufByte_storeBytes, stored]
  · intro off' h
    simp [State.hostRead, h, bufByte_storeBytes]

theorem writable_iff (off : BitVec 4) : writable off = true ↔ off = offData ∨ off = offAddrLo ∨ off = offAddrHi
    ∨ off = offConflictLo ∨ off = offConflictHi ∨ off = offBuf0 ∨ off = offBuf1 ∨ off = offBuf2 := by
  simp only [writable, Bool.or_eq_true, beq_iff_eq, or_assoc]

theorem storeReg_of_writable {off : BitVec 4} (h : writable off = true) : Stores s (s.storeReg off w) off w := by
  obtain rfl | rfl | rfl | rfl | rfl | rfl | rfl | rfl := (writable_iff off).1 h
  · exact stores_data s w
  · exact stores_addrLo s w
  · exact stores_addrHi s w
  · exact stores_conflictLo s w
  · exact stores_conflictHi s w
  · exact stores_buf0 s w
  · exact stores_buf1 s w
  · exact stores_buf2 s w

theorem storeReg_of_not_writable {off : BitVec 4} (h : writable off = false) : s.storeReg off w = s := by
  have hno := mt (writable_iff off).2 (by simp [h])
  push Not at hno
  obtain ⟨h2, h4, h5, h6, h7, h8, h9, h10⟩ := hno
  simp [State.storeReg, h2, h4, h5, h6, h7, h8, h9, h10]

/-- A write stores to the registers of the map and nowhere else. -/
theorem storeReg_frame (off : BitVec 4) :
    s.storeReg off w = { s with
      data := (s.storeReg off w).data, addr := (s.storeReg off w).addr, conflict := (s.storeReg off w).conflict,
      buf := (s.storeReg off w).buf } := by
  unfold State.storeReg
  split_ifs <;> rfl

/-- No write of a register shows at another offset. -/
theorem hostRead_storeReg_of_ne {off off' : BitVec 4} (h : off' ≠ off) :
    (s.storeReg off w).hostRead off' = s.hostRead off' := by
  cases hw : writable off with
  | true => exact (storeReg_of_writable s w hw).others off' h
  | false => rw [storeReg_of_not_writable s w hw]

end Stores

/-- Settles O13: the offsets one by one, then the write of `storeReg`. -/
theorem hostWritesStoreToTheirRegister : Obligations.HostWritesStoreToTheirRegister := by
  refine ⟨fun s => ?_, fun s off h => hostRead_unmapped h s, fun s off w rest hs hoff hi => ?_⟩
  · have hb := bufByte_eq_getElem s
    refine ⟨rfl, rfl, rfl, rfl, rfl, rfl, rfl, rfl, ?_, ?_, ?_⟩
    · exact (hostRead_buf0 s).trans (by rw [hb 3, hb 2, hb 1, hb 0])
    · exact (hostRead_buf1 s).trans (by rw [hb 7, hb 6, hb 5, hb 4])
    · exact (hostRead_buf2 s).trans (by rw [hb 8])
  · have hstep : step s = .next ({ s with inputs := rest }.storeReg off w) := by
      rw [step_hostEvent hs hi]
      exact if_neg hoff
    exact ⟨_, hstep, storeReg_frame _ w off, fun h => (storeReg_of_writable _ w h).own,
      fun h => storeReg_of_not_writable _ w h, fun _ h => hostRead_storeReg_of_ne _ w h⟩

/-! ### The configuration byte (R49, R225) -/

/-- R225: a byte that decodes is the pattern of its index. -/
theorem configByte_of_configIndex {v : Byte} {i : BitVec 2} (h : configIndex v = some i) : v = configByte i := by
  obtain ⟨k, hk, rfl⟩ := Option.map_eq_some_iff.1 h
  obtain ⟨hlt, hv, -⟩ := List.findIdx?_eq_some_iff_getElem.1 hk
  have hk4 : k < 4 := hlt
  rw [configByte, BitVec.toNat_ofNat, Nat.mod_eq_of_lt hk4, List.getD_eq_getElem _ _ hlt, eq_of_beq hv]

/-- Settles O51: the four indices one by one, and `configByte_of_configIndex`. -/
theorem configBytesRoundTrip : Obligations.ConfigBytesRoundTrip :=
  ⟨by decide, fun _ _ => configByte_of_configIndex, rfl, rfl, rfl, rfl⟩

end Sys2Proof.Machine

/-! ## The command word (R90, R91, R96, R100) -/

namespace Sys2Proof.Machine

/-! ### A word is its six fields (R90) -/

/-- R90: the diagram of the command word, read from a word. -/
theorem word_eq_append (w : Word) :
    rsvHighOf w ++ immOf w ++ lenOf w ++ rsvLowOf w ++ amOf w ++ opcOf w = w := by
  have join (a m n : Nat) : w.extractLsb' (a + m) n ++ w.extractLsb' a m = w.extractLsb' a (n + m) :=
    BitVec.extractLsb'_append_extractLsb'_eq_extractLsb' rfl
  unfold rsvHighOf immOf lenOf rsvLowOf amOf opcOf
  rw [join 16 8, join 12 4, join 10 2, join 8 2, join 0 8]
  exact BitVec.extractLsb'_eq_self

theorem commandWord_eq_self {w : Word} (hlow : rsvLowOf w = 0#2) (hhigh : rsvHighOf w = 0#8) :
    commandWord (immOf w) (lenOf w) (amOf w) (opcOf w) = w := by
  simpa only [commandWord, hlow, hhigh] using word_eq_append w

theorem word_eq_iff {v w : Word} :
    v = w ↔ opcOf v = opcOf w ∧ amOf v = amOf w ∧ rsvLowOf v = rsvLowOf w ∧ lenOf v = lenOf w
      ∧ immOf v = immOf w ∧ rsvHighOf v = rsvHighOf w := by
  constructor
  · rintro rfl
    exact ⟨rfl, rfl, rfl, rfl, rfl, rfl⟩
  · rintro ⟨hopc, ham, hlow, hlen, himm, hhigh⟩
    rw [← word_eq_append v, ← word_eq_append w, hopc, ham, hlow, hlen, himm, hhigh]

/-- R96: a masked comparison is one of each field. -/
theorem word_and_eq_iff {w m b : Word} :
    w &&& m = b ↔ opcOf w &&& opcOf m = opcOf b ∧ amOf w &&& amOf m = amOf b
      ∧ rsvLowOf w &&& rsvLowOf m = rsvLowOf b ∧ lenOf w &&& lenOf m = lenOf b
      ∧ immOf w &&& immOf m = immOf b ∧ rsvHighOf w &&& rsvHighOf m = rsvHighOf b := by
  simp only [word_eq_iff, opcOf, amOf, rsvLowOf, lenOf, immOf, rsvHighOf, BitVec.extractLsb'_and]

/-! ### What the decoder reads, by the operands an operation has (R91) -/

theorem decode_eq_ok {w : Word} {i : Instr} :
    decode w = .ok i
      ↔ (rsvLowOf w = 0#2 ∧ rsvHighOf w = 0#8) ∧ decodeFields (opcOf w) (amOf w) (lenOf w) (immOf w) = .ok i := by
  unfold decode
  split_ifs with h <;> simp [h]

section Operands

variable {am : BitVec 2} {len : BitVec 4} {imm : Byte} {j : Instr}

theorem decodeBare_eq_ok {i : Instr} :
    decodeBare i am len imm = .ok j ↔ (am = 0#2 ∧ len = 0#4 ∧ imm = 0#8) ∧ i = j := by
  unfold decodeBare
  split_ifs with h <;> simp [h]

theorem decodeWbyte_eq_ok : decodeWbyte am len imm = .ok j ↔ (am = 0#2 ∧ len = 0#4) ∧ .wbyte imm = j := by
  unfold decodeWbyte
  split_ifs with h <;> simp [h]

theorem decodeWbit_eq_ok :
    decodeWbit am len imm = .ok j
      ↔ (am = 0#2 ∧ len = 0#4) ∧ imm.extractLsb' 1 7 = 0#7 ∧ .wbit (imm.getLsbD 0) = j := by
  unfold decodeWbit
  split_ifs with h hbit
  · simp [h, hbit]
  · simp [hbit]
  · simp [h]

theorem decodeLen_eq_ok {mk : BitVec 4 → Instr} :
    decodeLen mk am len imm = .ok j ↔ (am = 0#2 ∧ imm = 0#8) ∧ lenOk len = true ∧ mk len = j := by
  unfold decodeLen
  split_ifs with h hlen
  · simp [h, hlen]
  · simp [hlen]
  · simp [h]

/-- R91, R93: three of the four codes are modes. -/
theorem addrModeOf_eq_some {m : AddrMode} : addrModeOf am = some m ↔ am = m.code := by
  revert am
  cases m <;> decide

theorem exists_addrMode_iff : (∃ m : AddrMode, am = m.code) ↔ am ≠ 3#2 := by
  constructor
  · rintro ⟨m, rfl⟩
    cases m <;> decide
  · revert am
    simp only [← addrModeOf_eq_some, ← Option.isSome_iff_exists]
    decide

theorem decodeFn_eq_ok {mk : AddrMode → Instr} :
    decodeFn mk am len imm = .ok j ↔ (len = 0#4 ∧ imm = 0#8) ∧ ∃ m : AddrMode, am = m.code ∧ mk m = j := by
  simp only [← addrModeOf_eq_some]
  unfold decodeFn
  split_ifs with h
  · cases addrModeOf am <;> simp [h]
  · simp [h]

end Operands

/-- R91: bit 0 of `IMM` and seven zeros. -/
theorem imm_of_high_zero {imm : Byte} (h : imm.extractLsb' 1 7 = 0#7) :
    0#7 ++ BitVec.ofBool (imm.getLsbD 0) = imm := by
  revert imm
  decide

/-- How the decoder reads the fields of a word with the operation code `opc` (R91), with the command words of the
instructions it can read. -/
inductive OperandFormat (opc : Byte) : Prop where
  | bare (i : Instr) (hdec : decodeFields opc = decodeBare i) (henc : encode i = commandWord 0#8 0#4 0#2 opc)
      (hwf : i.wellFormed = true)
      (hcode : opc ∈ opcodes ∧ opc ∉ lenCodes ∧ opc ∉ amCodes ∧ opc ≠ 0x03#8 ∧ opc ≠ 0x05#8)
  | bit (hopc : opc = 0x03#8)
  | byte (hopc : opc = 0x05#8)
  | count (mk : BitVec 4 → Instr) (hdec : decodeFields opc = decodeLen mk)
      (henc : ∀ n, encode (mk n) = commandWord 0#8 n 0#2 opc) (hwf : ∀ n, (mk n).wellFormed = lenOk n)
      (hcode : opc ∈ lenCodes)
  | function (mk : AddrMode → Instr) (hdec : decodeFields opc = decodeFn mk)
      (henc : ∀ m, encode (mk m) = commandWord 0#8 0#4 m.code opc) (hwf : ∀ m, (mk m).wellFormed = true)
      (hcode : opc ∈ amCodes)
  | unknown (hdec : ∀ am len imm, decodeFields opc am len imm = .error .unknownOpcode) (hcode : opc ∉ opcodes)

theorem decodeFields_of_unknown {opc : Byte} (h : opc ∉ opcodes) (am : BitVec 2) (len : BitVec 4) (imm : Byte) :
    decodeFields opc am len imm = .error .unknownOpcode := by
  simp only [opcodes, List.mem_cons, List.not_mem_nil, BitVec.toNat_eq] at h
  unfold decodeFields
  split <;> simp_all

/-- The 21 codes in the order of R96. -/
theorem operandFormat (opc : Byte) : OperandFormat opc := by
  by_cases h : opc ∈ opcodes
  · simp only [opcodes, List.mem_cons, List.not_mem_nil, or_false] at h
    obtain rfl | rfl | rfl | rfl | rfl | rfl | rfl | rfl | rfl | rfl | rfl | rfl | rfl | rfl | rfl | rfl | rfl | rfl
      | rfl | rfl | rfl := h
    · exact .bare .nop rfl rfl rfl (by decide)
    · exact .bare .init rfl rfl rfl (by decide)
    · exact .bare .rbit rfl rfl rfl (by decide)
    · exact .bit rfl
    · exact .bare .rbyte rfl rfl rfl (by decide)
    · exact .byte rfl
    · exact .count .rbytes rfl (fun _ => rfl) (fun _ => rfl) (by decide)
    · exact .count .wbytes rfl (fun _ => rfl) (fun _ => rfl) (by decide)
    · exact .count .crc rfl (fun _ => rfl) (fun _ => rfl) (by decide)
    · exact .count .crcchk rfl (fun _ => rfl) (fun _ => rfl) (by decide)
    · exact .bare .readRom rfl rfl rfl (by decide)
    · exact .bare .matchRom rfl rfl rfl (by decide)
    · exact .bare .skipRom rfl rfl rfl (by decide)
    · exact .bare .searchRom rfl rfl rfl (by decide)
    · exact .bare .alarmSearch rfl rfl rfl (by decide)
    · exact .function .convertT rfl (fun _ => rfl) (fun _ => rfl) (by decide)
    · exact .function .recallE2 rfl (fun _ => rfl) (fun _ => rfl) (by decide)
    · exact .function .readPower rfl (fun _ => rfl) (fun _ => rfl) (by decide)
    · exact .function .copySp rfl (fun _ => rfl) (fun _ => rfl) (by decide)
    · exact .function .readSp rfl (fun _ => rfl) (fun _ => rfl) (by decide)
    · exact .function .writeSp rfl (fun _ => rfl) (fun _ => rfl) (by decide)
  · exact .unknown (decodeFields_of_unknown h) h

/-! ### The round trip -/

/-- R91: the fields of a well-formed instruction are read back. -/
theorem decodeFields_of_wellFormed {i : Instr} (h : i.wellFormed = true) :
    decodeFields i.opc i.amField i.lenField i.immField = .ok i := by
  cases i with
  | rbytes n | wbytes n | crc n | crcchk n => exact decodeLen_eq_ok.2 ⟨⟨rfl, rfl⟩, h, rfl⟩
  | convertT am | recallE2 am | readPower am | copySp am | readSp am | writeSp am =>
    exact decodeFn_eq_ok.2 ⟨⟨rfl, rfl⟩, am, rfl, rfl⟩
  | wbit b => cases b <;> rfl
  | _ => rfl

/-- Settles O1: the word holds the fields of the instruction, and these are read back. -/
theorem decodeOfEncodeIsTheInstruction : Obligations.DecodeOfEncodeIsTheInstruction := by
  intro i h
  obtain ⟨hopc, ham, hlow, hlen, himm, hhigh⟩ : Laws.CommandFields.Statement i :=
    Laws.CommandFields.commandWord_fields _ _ _ _
  rw [decode_eq_ok, hopc, ham, hlen, himm]
  exact ⟨⟨hlow, hhigh⟩, decodeFields_of_wellFormed h⟩

theorem wellFormed_encode_of_decodeFields {opc : Byte} {am : BitVec 2} {len : BitVec 4} {imm : Byte} {i : Instr}
    (h : decodeFields opc am len imm = .ok i) : i.wellFormed = true ∧ encode i = commandWord imm len am opc := by
  cases operandFormat opc with
  | bare j hdec henc hwf _ =>
    rw [hdec, decodeBare_eq_ok] at h
    obtain ⟨⟨rfl, rfl, rfl⟩, rfl⟩ := h
    exact ⟨hwf, henc⟩
  | bit hopc =>
    subst hopc
    obtain ⟨⟨rfl, rfl⟩, himm, rfl⟩ := decodeWbit_eq_ok.1 h
    exact ⟨rfl, congrArg (commandWord · 0#4 0#2 0x03#8) (imm_of_high_zero himm)⟩
  | byte hopc =>
    subst hopc
    obtain ⟨⟨rfl, rfl⟩, rfl⟩ := decodeWbyte_eq_ok.1 h
    exact ⟨rfl, rfl⟩
  | count mk hdec henc hwf _ =>
    rw [hdec, decodeLen_eq_ok] at h
    obtain ⟨⟨rfl, rfl⟩, hlen, rfl⟩ := h
    exact ⟨(hwf len).trans hlen, henc len⟩
  | function mk hdec henc hwf _ =>
    rw [hdec, decodeFn_eq_ok] at h
    obtain ⟨⟨rfl, rfl⟩, m, rfl, rfl⟩ := h
    exact ⟨hwf m, henc m⟩
  | unknown hdec _ => cases (hdec am len imm).symm.trans h

/-- Settles O2: by the format of the operation code; the reserved bits are 0, so the fields are the whole word. -/
theorem encodeOfDecodeIsTheWord : Obligations.EncodeOfDecodeIsTheWord := by
  intro w i h
  obtain ⟨⟨hlow, hhigh⟩, hfields⟩ := decode_eq_ok.1 h
  rw [← commandWord_eq_self hlow hhigh]
  exact wellFormed_encode_of_decodeFields hfields

/-! ### The illegal words (R100) -/

/-- What R100 leaves to the fields when the reserved bits are 0: the format of the code accepts them. -/
def Legal (opc : Byte) (am : BitVec 2) (len : BitVec 4) (imm : Byte) : Prop :=
  opc ∈ opcodes ∧ (opc ∈ amCodes ∨ am = 0#2) ∧ (opc ∈ lenCodes ∨ len = 0#4)
    ∧ (opc = 0x03#8 ∨ opc = 0x05#8 ∨ imm = 0#8) ∧ (opc ∈ lenCodes → lenOk len = true) ∧ (opc ∈ amCodes → am ≠ 3#2)
    ∧ (opc = 0x03#8 → imm.extractLsb' 1 7 = 0#7)

theorem not_illegalWord {w : Word} :
    ¬ illegalWord w
      ↔ (rsvLowOf w = 0#2 ∧ rsvHighOf w = 0#8) ∧ Legal (opcOf w) (amOf w) (lenOf w) (immOf w) := by
  simp only [illegalWord, Legal, lenOk, decide_eq_true_eq, not_or, not_and_or, not_not, not_lt, imp_iff_not_or, ne_eq]
  constructor
  · rintro ⟨hopc, hlow, hhigh, hfields⟩
    exact ⟨⟨hlow, hhigh⟩, hopc, hfields⟩
  · rintro ⟨⟨hlow, hhigh⟩, hopc, hfields⟩
    exact ⟨hopc, hlow, hhigh, hfields⟩

/-- The codes with a count use nothing else. -/
theorem lenCodes_only : ∀ opc ∈ lenCodes, opc ∈ opcodes ∧ opc ∉ amCodes ∧ opc ≠ 0x03#8 ∧ opc ≠ 0x05#8 := by decide

/-- The codes with an address mode use nothing else. -/
theorem amCodes_only : ∀ opc ∈ amCodes, opc ∈ opcodes ∧ opc ∉ lenCodes ∧ opc ≠ 0x03#8 ∧ opc ≠ 0x05#8 := by decide

theorem exists_decodeFields_iff {opc : Byte} {am : BitVec 2} {len : BitVec 4} {imm : Byte} :
    (∃ i, decodeFields opc am len imm = .ok i) ↔ Legal opc am len imm := by
  cases operandFormat opc with
  | bare i hdec _ _ hcode =>
    simp only [hdec, decodeBare_eq_ok, Legal, hcode]
    simp
  | bit hopc =>
    have hdec : decodeFields 0x03#8 = decodeWbit := rfl
    subst hopc
    simp [hdec, decodeWbit_eq_ok, Legal, opcodes, lenCodes, amCodes, and_assoc]
  | byte hopc =>
    have hdec : decodeFields 0x05#8 = decodeWbyte := rfl
    subst hopc
    simp [hdec, decodeWbyte_eq_ok, Legal, opcodes, lenCodes, amCodes]
  | count mk hdec _ _ hcode =>
    simp only [hdec, decodeLen_eq_ok, Legal, hcode, lenCodes_only opc hcode]
    simp [and_assoc]
  | function mk hdec _ _ hcode =>
    simp only [hdec, decodeFn_eq_ok, Legal, hcode, amCodes_only opc hcode, ← exists_addrMode_iff]
    simp [and_assoc]
  | unknown hdec hcode => simp [hdec, Legal, hcode]

theorem exists_decode_iff (w : Word) : (∃ i, decode w = .ok i) ↔ ¬ illegalWord w := by
  simp only [decode_eq_ok, exists_and_left, exists_decodeFields_iff, not_illegalWord]

theorem decode_error_iff (w : Word) : (∃ e, decode w = .error e) ↔ illegalWord w := by
  rw [← not_iff_not, ← exists_decode_iff]
  cases decode w <;> simp

/-- R262: an operation that can only fail ends as the rule says, whatever the state. -/
theorem operation_raise (w : Word) (e : OpError) (s : State) :
    operation w (raise e) s = .next (s.endedError w 0 [] none e) := rfl

/-- Settles O4: the formats clause by clause; then acceptance and the error end. -/
theorem illegalWordsEndWithIllegalCommand : Obligations.IllegalWordsEndWithIllegalCommand := by
  refine ⟨decode_error_iff, fun s w rest hs hi hw => ?_⟩
  obtain ⟨e, he⟩ := (decode_error_iff w).2 hw
  have hidle : s.busy = false := by rw [State.busy, hs]; rfl
  rw [step_hostEvent hidle hi]
  simp only [hostEvent, command, he]
  exact operation_raise w _ _

/-! ### The operation map (R96) -/

/-- R96 agrees with R91 on every row: `mask` is 1 on the bits that are fixed. -/
theorem opRows_fields : ∀ r ∈ opRows,
    (opcOf r.bits ∈ opcodes ∧ amOf r.bits = 0#2 ∧ rsvLowOf r.bits = 0#2 ∧ lenOf r.bits = 0#4 ∧ immOf r.bits = 0#8
        ∧ rsvHighOf r.bits = 0#8)
      ∧ opcOf r.mask = BitVec.allOnes 8 ∧ rsvLowOf r.mask = BitVec.allOnes 2 ∧ rsvHighOf r.mask = BitVec.allOnes 8
      ∧ amOf r.mask = (if opcOf r.bits ∈ amCodes then 0#2 else BitVec.allOnes 2)
      ∧ lenOf r.mask = (if opcOf r.bits ∈ lenCodes then 0#4 else BitVec.allOnes 4)
      ∧ immOf r.mask = (if opcOf r.bits = 0x03#8 then 0xFE#8 else if opcOf r.bits = 0x05#8 then 0#8
          else BitVec.allOnes 8) := by
  decide

/-- A field a mask leaves free compares equal, a fixed one when it is 0. -/
theorem and_mask_eq_zero {n : Nat} (free : Prop) [Decidable free] (x : BitVec n) :
    x &&& (if free then 0#n else BitVec.allOnes n) = 0#n ↔ free ∨ x = 0#n := by
  split_ifs with h <;> simp [h]

/-- The constraint of a row speaks of a field its mask leaves free. -/
theorem mask_ne_zero_or {n : Nat} (free p : Prop) [Decidable free] (hn : BitVec.allOnes n ≠ 0#n) :
    (if free then 0#n else BitVec.allOnes n) ≠ 0#n ∨ p ↔ (free → p) := by
  split_ifs with h <;> simp [h, hn]

/-- R91: what a row asks of `IMM`. -/
theorem imm_and_mask_eq_zero (opc imm : Byte) :
    imm &&& (if opc = 0x03#8 then 0xFE#8 else if opc = 0x05#8 then 0#8 else BitVec.allOnes 8) = 0#8
      ↔ (opc = 0x03#8 ∨ opc = 0x05#8 ∨ imm = 0#8) ∧ (opc = 0x03#8 → imm.extractLsb' 1 7 = 0#7) := by
  by_cases hbit : opc = 0x03#8
  · simp only [hbit, if_true, true_or, true_and, forall_const]
    revert imm
    decide
  · simp only [hbit, if_false, false_or, false_imp_iff, and_true]
    exact and_mask_eq_zero _ imm

/-- R96, R100: a row selects the legal words with its code. -/
theorem selects_iff {r : OpRow} (hr : r ∈ opRows) (w : Word) :
    r.selects w = true ↔ opcOf w = opcOf r.bits ∧ ¬ illegalWord w := by
  obtain ⟨⟨hopc, ham, hlow, hlen, himm, hhigh⟩, mopc, mlow, mhigh, mam, mlen, mimm⟩ := opRows_fields r hr
  simp only [OpRow.selects, OpRow.constraint, Bool.and_eq_true, Bool.or_eq_true, beq_iff_eq, bne_iff_ne,
    word_and_eq_iff, ham, hlow, hlen, himm, hhigh, mopc, mlow, mhigh, mam, mlen, mimm, BitVec.and_allOnes,
    and_mask_eq_zero, imm_and_mask_eq_zero, mask_ne_zero_or _ _ (by decide : BitVec.allOnes 2 ≠ 0#2),
    mask_ne_zero_or _ _ (by decide : BitVec.allOnes 4 ≠ 0#4), and_assoc, not_illegalWord, Legal]
  refine and_congr_right fun h => ?_
  rw [← h] at hopc ⊢
  constructor
  · rintro ⟨ham0, hlow0, hlen0, himm0, hbit, hhigh0, hcount, hmode⟩
    exact ⟨hlow0, hhigh0, hopc, ham0, hlen0, himm0, hcount, hmode, hbit⟩
  · rintro ⟨hlow0, hhigh0, -, ham0, hlen0, himm0, hcount, hmode, hbit⟩
    exact ⟨ham0, hlow0, hlen0, himm0, hbit, hhigh0, hcount, hmode⟩

theorem mnemonics_nodup : (opRows.map OpRow.mnemonic).Nodup := by decide

theorem codes_nodup : (opRows.map fun r => opcOf r.bits).Nodup := by decide

/-- Every instruction stands in the map, under its mnemonic and its code. -/
theorem exists_row (i : Instr) : ∃ r ∈ opRows, r.mnemonic = i.mnemonic ∧ opcOf r.bits = i.opc := by
  have h : (opRows.any fun r => r.mnemonic == i.mnemonic && opcOf r.bits == i.opc) = true := by cases i <;> rfl
  simpa using h

/-- No two rows share a mnemonic or a code. -/
theorem mnemonic_eq_iff {r : OpRow} (hr : r ∈ opRows) (i : Instr) :
    i.mnemonic = r.mnemonic ↔ i.opc = opcOf r.bits := by
  obtain ⟨row, hrow, hmnemonic, hopc⟩ := exists_row i
  rw [← hmnemonic, ← hopc]
  exact ⟨fun h => by rw [List.inj_on_of_nodup_map mnemonics_nodup hrow hr h],
    fun h => by rw [List.inj_on_of_nodup_map codes_nodup hrow hr h]⟩

theorem opc_of_decode {w : Word} {i : Instr} (h : decode w = .ok i) : i.opc = opcOf w := by
  rw [← (encodeOfDecodeIsTheWord w i h).2]
  exact (Laws.CommandFields.commandWord_fields i.immField i.lenField i.amField i.opc).1.symm

/-- Settles O3: both sides say that the word is legal and has the code of the row. -/
theorem decodeAgreesWithOperationMap : Obligations.DecodeAgreesWithOperationMap := by
  intro r hr w
  rw [selects_iff hr, ← exists_decode_iff, ← exists_and_left]
  refine exists_congr fun i => ?_
  rw [and_comm, mnemonic_eq_iff hr]
  exact and_congr_left fun h => by rw [opc_of_decode h]

/-- Settles O5: ten words, decoded. -/
theorem sampleWordsDecode : Obligations.SampleWordsDecode := by
  unfold Obligations.SampleWordsDecode
  decide

/-! ### Counts over 9 (R148, R149, R158, R159) -/

theorem operation_withCount_raise (i : Instr) {n : BitVec 4} (h : lenOk n = false) (body : Op Unit) (s : State) :
    operation (encode i) (withCount i n body) s
      = .next (s.endedError (encode i) 0 [] none (.illegalCommand i.opc)) := by
  rw [withCount, h]
  exact operation_raise _ _ s

/-- Settles O30: only a count can be ill formed. -/
theorem countsOverNineAreIllegal : Obligations.CountsOverNineAreIllegal := by
  intro s i h
  cases i with
  | rbytes n | wbytes n | crc n | crcchk n => exact operation_withCount_raise _ h _ s
  | _ => cases h

end Sys2Proof.Machine

/-! ## The timing primitives on a line that answers (R122, R124, R125, R127 to R129) -/

namespace Sys2Proof.Machine

theorem initBody_at (m : Nat) {s : State} {w : Word} {q : Seq} {h : Hidden} (hq : s.quiet (initAnswers m))
    (hr : s.risesAfter m) :
    initBody (s.at_ w 0 [] q h) = .ok ()
      (s.at_ w (initAnswers m) (initTrace Config.profile (s.presenceAt m)) (.rst .low)
        { h with presence := some (!s.presenceAt m) }) := by
  rw [initBody, op_bind_ok (initSeq_at m hq hr), op_pure]

/-- Settles O25: the initialization sequence on a quiet line that rises, then the end that commits its sample. -/
theorem initReportsPresence : Obligations.InitReportsPresence := by
  intro s m hq hr
  exact congrArg Host.Outcome.next (operate_ok (initBody_at m hq hr))

theorem rbitBody_at {s : State} {w : Word} {q : Seq} {h : Hidden} (hq : s.quiet 3) :
    rbitBody (s.at_ w 0 [] q h) = .ok ()
      ((s.at_ w 3 (readSlotTrace Config.profile (s.readAt 0)) q h).setBitFlag (s.readAt 0)) := by
  rw [rbitBody, op_bind_ok (readBit_at hq), op_modify]
  rfl

/-- Settles O26: one slot on a quiet line, then the end. -/
theorem bitOperationsAreOneSlot : Obligations.BitOperationsAreOneSlot :=
  ⟨fun _ hq => congrArg Host.Outcome.next (operate_ok (rbitBody_at hq)),
    fun _ b hq => congrArg Host.Outcome.next (operate_ok (writeBit_at b (n := 0) (tr := []) hq))⟩

end Sys2Proof.Machine

/-! ## A fault at a pin event of the sequencer (R126, R249, R262) -/

namespace Sys2Proof.Machine

/-- A faulted look `p` aborts: the event is in the trace, the line is released, the error end is next (R126, R249). -/
def State.afterFault (p : Pins) (rest : List Input) (s : State) : State :=
  ({ s with inputs := rest }.emit (.faulted p.pinErr)).abort (.pinFault p.pinErr)

theorem afterFault_working (p : Pins) (rest : List Input) (s : State) : Working s (s.afterFault p rest) := by
  constructor <;> rfl

section Fault

variable {s : State} {p : Pins} {rest : List Input} (hi : s.inputs = .pins p :: rest) (hp : p.pinFault = true)

include hi hp

theorem pinTick_fault (act : Bool → State → State) : s.pinTick act = s.afterFault p rest := by
  have hlook : s.look = (p, { s with inputs := rest }) := by rw [State.look, hi]
  rw [State.pinTick, hlook, if_pos hp]
  rfl

/-- A pin event is due at a slot's `PinLow`, `PinRelease` and `PinSample` (R94, R95). -/
theorem slotTick_fault {sl : Slot} {pos : SlotPos} (hdue : s.pinEventDue) (hpos : s.seq.slotPos = some pos)
    (hrel : s.seq.releaseNext = (pos == sl.releasePos)) (at_ : SlotPos → Seq) (onSample : Bool → Hidden → Hidden)
    (next : State → State) : s.slotTick sl pos at_ onSample next = s.afterFault p rest := by
  obtain hwait | ⟨htmr, hev⟩ := hdue
  · rw [hwait] at hpos
    cases hpos
  have hidle : ¬ 0 < s.hid.tmr := by omega
  simp only [hpos, hrel, Option.some.injEq, beq_iff_eq] at hev
  unfold State.slotTick
  rw [if_neg hidle]
  obtain rfl | rfl | rfl := hev
  · exact pinTick_fault hi hp _
  · cases sl with
    | write b | read | reset => exact pinTick_fault hi hp _
  · exact pinTick_fault hi hp _

/-- R243: wherever a pin event is due, the move is that pin event. -/
theorem move_fault (i : Instr) (hdue : s.pinEventDue) : s.move i = s.afterFault p rest := by
  unfold State.move
  cases hq : s.seq with
  | waitHigh => exact pinTick_fault hi hp _
  | srch k t pos =>
    cases t with
    | r1 | r2 | wb => exact slotTick_fault hi hp hdue (by rw [hq]; rfl) (by rw [hq]; rfl) _ _ _
  | rst pos | txAddrCmd j pos | txAddr k j pos | txCmd j pos | txData k j pos | rxData k j pos | poll k pos =>
    exact slotTick_fault hi hp hdue (by rw [hq]; rfl) (by rw [hq]; rfl) _ _ _
  | idle | decode | check | hold | validate | complete =>
    simp [State.pinEventDue, hq, Seq.slotPos, Seq.releaseNext] at hdue

theorem tick_fault {i : Instr} (hd : decode s.cmd = .ok i) (hdue : s.pinEventDue) :
    s.tick = s.afterFault p rest := by
  have hseq : s.tick = s.sequence := by
    rw [State.tick, hi]
    cases s.seq.timed <;> rfl
  rw [hseq, State.sequence, hd]
  exact move_fault hi hp i hdue

end Fault

theorem busy_of_pinEventDue {s : State} (h : s.pinEventDue) : s.busy = true := by
  unfold State.pinEventDue at h
  unfold State.busy
  cases hq : s.seq with
  | idle => simp [hq, Seq.slotPos, Seq.releaseNext] at h
  | _ => rfl

/-- R249: after an abort the next move is the error end. -/
theorem step_of_complete_error {s : State} {i : Instr} {e : OpError} (hd : decode s.cmd = .ok i)
    (hq : s.seq = .complete (some e)) : step s = .next (s.raiseError e) := by
  have hbusy : s.busy = true := by rw [State.busy, hq]; rfl
  rw [step_of_busy hbusy]
  simp [State.tick, State.sequence, State.move, hq, Seq.timed, hd]

/-- Settles O46: the move is the faulted pin event, the next one the error end. -/
theorem pinFaultAbortsInAnyPhase : Obligations.PinFaultAbortsInAnyPhase := by
  intro s i p rest hd hdue hi hp
  have hstep : step s = .next (s.afterFault p rest) := by
    rw [step_of_busy (busy_of_pinEventDue hdue), tick_fault hi hp hd hdue]
  have hend : step (s.afterFault p rest) = .next ((s.afterFault p rest).raiseError (.pinFault p.pinErr)) :=
    step_of_complete_error hd rfl
  have hsame : sameResults s ((s.afterFault p rest).raiseError (.pinFault p.pinErr)) :=
    (afterFault_working p rest s).sameResults
  exact ⟨_, _, hstep, rfl, rfl, hend, rfl, rfl, rfl, rfl, rfl, hsame, rfl, rfl, rfl⟩

end Sys2Proof.Machine

/-! ## How an operation stops at its first look at the line (R123, R126, R171, R210, R228, R265)

A procedure that stops does so wherever its caller has got to. So an operation whose operand checks pass stops as its
first procedure does: the initialization sequence, or the `PinLow` of its first slot. -/

namespace Sys2Proof.Machine

/-- If the first result is an early end, so is the second, in the same state. -/
def StopsWith {α β : Type} (r : EStateM.Result Stop State α) (r' : EStateM.Result Stop State β) : Prop :=
  ∀ e t, r = .error e t → r' = .error e t

section Compose

variable {α β γ : Type} {r : EStateM.Result Stop State γ} {x : Op α} {f : α → Op β} {s t : State} {v : α}

theorem StopsWith.refl (r : EStateM.Result Stop State γ) : StopsWith r r := fun _ _ => id

/-- The first part stops. -/
theorem StopsWith.bind (h : StopsWith r (x s)) : StopsWith r ((x >>= f) s) := fun e u hr => op_bind_error (h e u hr)

/-- The first part returns, what follows stops. -/
theorem StopsWith.after (hx : x s = .ok v t) (h : StopsWith r (f v t)) : StopsWith r ((x >>= f) s) :=
  fun e u hr => (op_bind_ok hx).trans (h e u hr)

/-- A count that is legal is no obstacle. -/
theorem StopsWith.withCount {i : Instr} {n : BitVec 4} {body : Op Unit} (hn : lenOk n = true)
    (h : StopsWith r (body s)) : StopsWith r (withCount i n body s) := by
  rwa [Sys2Proof.Machine.withCount, if_pos hn]

end Compose

/-! ### The procedures that begin with a slot -/

section Slots

variable (s : State)

theorem readBit_stopsWith (P : Profile) : StopsWith (pinLow s) (readBit P s) := .bind (.refl _)

theorem writeBit_stopsWith (P : Profile) (b : Bool) : StopsWith (pinLow s) (writeBit P b s) := .bind (.refl _)

theorem readBits_stopsWith (n : Nat) (acc : Byte) : StopsWith (pinLow s) (readBits (n + 1) acc s) :=
  .bind (readBit_stopsWith s _)

theorem readByte_stopsWith : StopsWith (pinLow s) (readByte s) := readBits_stopsWith s 7 0#8

theorem writeByte_stopsWith (v : Byte) : StopsWith (pinLow s) (writeByte v s) :=
  .bind (writeBit_stopsWith s Config.profile (v.getLsbD 0))

theorem busRead_stopsWith {n : Nat} (hn : n ≠ 0) : StopsWith (pinLow s) (busRead n s) := by
  obtain ⟨k, rfl⟩ := Nat.exists_eq_succ_of_ne_zero hn
  exact .bind (readByte_stopsWith s)

theorem busWrite_stopsWith {l : List Byte} (hl : l ≠ []) : StopsWith (pinLow s) (busWrite l s) := by
  obtain ⟨v, r, rfl⟩ := List.exists_cons_of_ne_nil hl
  exact .bind (writeByte_stopsWith s v)

/-- R210 without an addressing step: the first slot is that of the command byte. -/
theorem functionFrame_noAddr_stopsWith {check body : Op Unit} (hcheck : check s = .ok () s) (c : Byte) :
    StopsWith (pinLow s) (functionFrame .noAddr check c body s) :=
  .after (op_pure () s) <| .after hcheck <| .after (op_pure () s) <| .bind (writeByte_stopsWith s c)

end Slots

/-! ### The procedures that begin with the initialization sequence -/

theorem initSeq_stopsWith (P : Profile) (s : State) : StopsWith (awaitHigh s) (initSeq P s) := .bind (.refl _)

theorem addressing_stopsWith {am : AddrMode} (ham : am ≠ .noAddr) (s : State) :
    StopsWith (prologue s) (addressing am s) := by
  cases am with
  | noAddr => exact absurd rfl ham
  | skipAddr | matchAddr => exact .bind (.refl _)

/-- R210 with an addressing step, the operand checks passed. -/
theorem functionFrame_stopsWith {am : AddrMode} (ham : am ≠ .noAddr) {check body : Op Unit} {s : State}
    (haddr : am = .matchAddr → crc8 (bytesOf s.addr) = 0#8) (hcheck : check s = .ok () s) (c : Byte) :
    StopsWith (prologue s) (functionFrame am check c body s) :=
  .after (addrOperandCheck_ok haddr) <| .after hcheck <| .bind (addressing_stopsWith ham s)

theorem bufPrefix_ne_nil (s : State) {n : Nat} (hn : n ≠ 0) : s.bufPrefix n ≠ [] := by
  simpa [State.bufPrefix] using hn

/-- R228: `BUF[4]` holds a configuration byte. -/
theorem bufConfigCheck_ok {s : State} (h : ∃ idx, s.buf[4] = configByte idx) : bufConfigCheck s = .ok () s := by
  obtain ⟨idx, hidx⟩ := h
  have hv : validateConfig (s.bufByte 4) s = .ok idx s := by
    rw [bufByte_eq_getElem s 4 (by decide), hidx, validateConfig_ok]
  rw [bufConfigCheck, op_bind_ok (op_get s), op_bind_ok hv, op_pure]

/-! ### The operations -/

section Operations

variable {i : Instr} {s : State} (haddr : checksAddr i = true → crc8 (bytesOf s.addr) = 0#8)
  (hconfig : checksConfig i = true → ∃ idx, s.buf[4] = configByte idx)

include hconfig

/-- An operation with pin events and no initialization sequence begins with a slot. -/
theorem exec_stopsWith_pinLow (hwf : i.wellFormed = true) (hpin : hasPinEvent i = true) (hi : hasInitSeq i = false) :
    ∃ body, exec i = operation (encode i) body
      ∧ StopsWith (pinLow (s.accept (encode i))) (body (s.accept (encode i))) := by
  have ham : ∀ {am : AddrMode}, (am != .noAddr) = false → am = .noAddr := fun h => by simpa using h
  have hcount : ∀ {n : BitVec 4}, (n != 0#4) = true → n.toNat ≠ 0 := fun h => BitVec.toNat_ne_iff_ne.2 (bne_iff_ne.1 h)
  cases i with
  | rbit => exact ⟨_, rfl, .bind (readBit_stopsWith _ _)⟩
  | wbit b => exact ⟨_, rfl, writeBit_stopsWith _ _ b⟩
  | rbyte => exact ⟨_, rfl, .bind (readByte_stopsWith _)⟩
  | wbyte v => exact ⟨_, rfl, writeByte_stopsWith _ v⟩
  | rbytes n =>
    exact ⟨_, rfl, .withCount hwf (.bind (busRead_stopsWith _ (hcount hpin)))⟩
  | wbytes n =>
    exact ⟨_, rfl, .withCount hwf (.after (op_get _) (busWrite_stopsWith _ (bufPrefix_ne_nil _ (hcount hpin))))⟩
  | convertT am | recallE2 am | readPower am | copySp am | readSp am =>
    obtain rfl := ham hi
    exact ⟨_, rfl, functionFrame_noAddr_stopsWith _ (op_pure () _) _⟩
  | writeSp am =>
    obtain rfl := ham hi
    exact ⟨_, rfl, functionFrame_noAddr_stopsWith _ (bufConfigCheck_ok (s := s.accept _) (hconfig rfl)) _⟩
  | nop | crc n | crcchk n => cases hpin
  | init | readRom | matchRom | skipRom | searchRom | alarmSearch => cases hi

include haddr

/-- Every operation with an initialization sequence but `INIT` begins with the prologue (R173). -/
theorem exec_stopsWith_prologue (hi : hasInitSeq i = true) (hne : i ≠ .init) :
    ∃ body h, exec i = operation (encode i) body ∧ h.presence = none
      ∧ StopsWith (prologue (s.at_ (encode i) 0 [] .decode h)) (body (s.accept (encode i))) := by
  have ham : ∀ {am : AddrMode}, (am != .noAddr) = true → am ≠ .noAddr := bne_iff_ne.1
  have hmatch : ∀ {am : AddrMode}, am = .matchAddr → (am == .matchAddr) = true := beq_iff_eq.2
  cases i with
  | readRom => exact ⟨_, _, rfl, rfl, .bind (.refl _)⟩
  | matchRom => exact ⟨_, _, rfl, rfl, .after (checkCrc_ok (haddr rfl) _) (.bind (.refl _))⟩
  | skipRom => exact ⟨_, _, rfl, rfl, .bind (.refl _)⟩
  | searchRom | alarmSearch =>
    exact ⟨_, _, rfl, rfl, .after (startPass_at s _ _) (.after (op_get _) (.bind (.refl _)))⟩
  | convertT am | recallE2 am | readPower am | copySp am | readSp am =>
    exact ⟨_, { s.hid with presence := none, tmr := 0 }, rfl, rfl,
      functionFrame_stopsWith (s := s.accept _) (ham hi) (fun h => haddr (hmatch h)) (op_pure () _) _⟩
  | writeSp am =>
    exact ⟨_, { s.hid with presence := none, tmr := 0 }, rfl, rfl,
      functionFrame_stopsWith (s := s.accept _) (ham hi) (fun h => haddr (hmatch h))
        (bufConfigCheck_ok (hconfig rfl)) _⟩
  | init => exact absurd rfl hne
  | nop | rbit | wbit b | rbyte | wbyte v | rbytes n | wbytes n | crc n | crcchk n => cases hi

/-- Every operation with an initialization sequence begins with `AwaitHigh` (R122). -/
theorem exec_stopsWith_awaitHigh (hi : hasInitSeq i = true) :
    ∃ body h, exec i = operation (encode i) body ∧ h.presence = none
      ∧ StopsWith (awaitHigh (s.at_ (encode i) 0 [] .decode h)) (body (s.accept (encode i))) := by
  by_cases hne : i = .init
  · subst hne
    exact ⟨_, _, rfl, rfl, .bind (initSeq_stopsWith _ _)⟩
  · obtain ⟨body, h, hexec, hlatch, hstop⟩ := exec_stopsWith_prologue haddr hconfig hi hne
    exact ⟨body, h, hexec, hlatch, fun e t he => hstop e t (op_bind_error (op_bind_error he))⟩

end Operations

/-! ### A fault at the first look (R126) -/

theorem pinLow_fault {s : State} {p : Pins} {rest : List Input} (hi : s.inputs = .pins p :: rest)
    (hp : p.pinFault = true) :
    pinLow s = .error (.raised (.pinFault p.pinErr)) ({ s with inputs := rest }.emit (.faulted p.pinErr)) :=
  op_bind_error (pinEvent_fault _ hi hp)

theorem awaitHigh_fault {s : State} {p : Pins} {rest : List Input} (hi : s.inputs = .pins p :: rest)
    (hp : p.pinFault = true) :
    awaitHigh s = .error (.raised (.pinFault p.pinErr))
      ({ s with inputs := rest, seq := .waitHigh }.emit (.faulted p.pinErr)) := by
  rw [awaitHigh, hi, awaitFrom, if_pos hp]

/-- R262: what an operation shows that saw a fault at its first look. -/
theorem raiseError_firstLook {s : State} {x : Input} {rest : List Input} (hi : s.inputs = x :: rest) (w : Word)
    (q : Seq) {h : Hidden} (hlatch : h.presence = none) (c : Byte) (e : OpError) :
    ({ s.at_ w 0 [] q h with inputs := rest }.emit (.faulted c)).raiseError e
      = s.endedError w 1 [.faulted c] none e := by
  have hrest : rest = s.inputs.drop 1 := by rw [hi]; rfl
  rw [hrest, ← hlatch]
  rfl

/-- Settles O44: the first look is that of `AwaitHigh` or of the first slot's `PinLow`. -/
theorem pinFaultAtTheFirstLookEndsTheOperation : Obligations.PinFaultAtTheFirstLookEndsTheOperation := by
  intro s i p rest hwf hpin haddr hconfig hin hp
  cases hi : hasInitSeq i with
  | true =>
    obtain ⟨body, h, hexec, hlatch, hstop⟩ := exec_stopsWith_awaitHigh haddr hconfig hi
    have hfault := hstop _ _ (awaitHigh_fault (s := s.at_ (encode i) 0 [] .decode h) hin hp)
    rw [hexec, operation, operate_raised hfault]
    exact congrArg _ (raiseError_firstLook hin _ .waitHigh hlatch _ _)
  | false =>
    obtain ⟨body, hexec, hstop⟩ := exec_stopsWith_pinLow hconfig hwf hpin hi
    have hfault := hstop _ _ (pinLow_fault (s := s.accept (encode i)) hin hp)
    rw [hexec, operation, operate_raised hfault]
    exact congrArg _ (raiseError_firstLook hin _ .decode rfl _ _)

/-! ### A line that stays low (R123) -/

theorem awaitFrom_low (l : List Input) {s : State} (hi : s.inputs = l)
    (hlow : ∀ x ∈ l, ∃ c, x = .pins ⟨false, false, c⟩) :
    awaitFrom l s = .error .waiting { s with inputs := [] } := by
  induction l generalizing s with
  | nil => exact congrArg (EStateM.Result.error Stop.waiting) (by rw [← hi])
  | cons x rest ih =>
    obtain ⟨⟨c, rfl⟩, hrest⟩ := List.forall_mem_cons.1 hlow
    exact ih (s := { s with inputs := rest }) rfl hrest

/-- Settles O45: an operation with an initialization sequence stops with `AwaitHigh`, and that takes the low answers
one by one. -/
theorem stuckLowLineKeepsOwmWaiting : Obligations.StuckLowLineKeepsOwmWaiting := by
  intro s i hi haddr hconfig hlow
  obtain ⟨body, h, hexec, -, hstop⟩ := exec_stopsWith_awaitHigh haddr hconfig hi
  have hwait := hstop _ _ (awaitFrom_low s.inputs (s := s.at_ (encode i) 0 [] .waitHigh h) rfl hlow)
  refine ⟨{ s.at_ (encode i) 0 [] .waitHigh h with inputs := [] }, ?_, rfl, rfl, rfl, rfl, rfl,
    ⟨rfl, rfl, rfl, rfl, rfl, rfl, rfl, rfl⟩, rfl, rfl, rfl⟩
  rw [hexec, operation, State.operate, hwait]

end Sys2Proof.Machine

/-! ## A faulted event ends the trace, and its operation with `PinFault` (R126, R10, R260)

One lemma per procedure, by composition: until a procedure stops the trace has no faulted event, and it stops with
`PinFault` exactly when it has just added one. -/

namespace Sys2Proof.Machine

/-- No event of the trace is a faulted one. -/
def Faultless (l : List PinEvent) : Prop := ∀ c, PinEvent.faulted c ∉ l

theorem faultless_cons {e : PinEvent} {l : List PinEvent} (he : ∀ c, e ≠ .faulted c) (h : Faultless l) :
    Faultless (e :: l) := by
  intro c hc
  obtain hce | hc := List.mem_cons.1 hc
  · exact he c hce.symm
  · exact h c hc

/-- Neither the trace nor the indication shows a fault. -/
structure Unfaulted (s : State) : Prop where
  trace : Faultless s.trace
  ecode : s.ecode ≠ 1#4

/-- The trace shows the error: a `PinFault` with its payload as the last event, every other error with no fault. -/
def OpError.ShownIn (t : State) : OpError → Prop
  | .pinFault c => ∃ l, t.trace = .faulted c :: l ∧ Faultless l
  | _ => Unfaulted t

/-- How a run that started unfaulted ended. -/
def ShowsFault {α : Type} : EStateM.Result Stop State α → Prop
  | .ok _ t => Unfaulted t
  | .error (.raised e) t => e.ShownIn t
  | .error .waiting t => Unfaulted t
  | .error .rst t => Unfaulted t

/-- An early end says nothing of the value. -/
theorem ShowsFault.error {α β : Type} {e : Stop} {t : State}
    (h : ShowsFault (.error e t : EStateM.Result Stop State α)) :
    ShowsFault (.error e t : EStateM.Result Stop State β) := by
  cases e with
  | raised e => exact h
  | waiting => exact h
  | rst => exact h

/-- Started unfaulted, the procedure shows every fault it stops with. -/
def ShowsFaults {α : Type} (x : Op α) : Prop := ∀ s, Unfaulted s → ShowsFault (x s)

/-- A change that leaves the trace and the error code as they are. -/
theorem Unfaulted.of_eq {s t : State} (h : Unfaulted s) (htrace : t.trace = s.trace) (hecode : t.ecode = s.ecode) :
    Unfaulted t := ⟨htrace ▸ h.trace, hecode ▸ h.ecode⟩

/-- One more event in the trace, not a faulted one. -/
theorem Unfaulted.of_cons {s t : State} (h : Unfaulted s) {e : PinEvent} (he : ∀ c, e ≠ .faulted c)
    (htrace : t.trace = e :: s.trace) (hecode : t.ecode = s.ecode) : Unfaulted t :=
  ⟨htrace ▸ faultless_cons he h.trace, hecode ▸ h.ecode⟩

/-- R291: what `rst` leaves is the trace so far. -/
theorem Unfaulted.abandon {s : State} (h : Unfaulted s) (left t : Nat) : Unfaulted (s.abandon left t) := by
  refine ⟨?_, show (0#4) ≠ 1#4 by decide⟩
  rw [State.abandon_trace]
  split
  · exact h.trace
  · exact faultless_cons nofun h.trace

/-- Only a pin fault has code 1 (R260). -/
theorem OpError.code_ne_one {e : OpError} (he : ¬ e.isPinFault) : e.code ≠ 1#4 := by
  cases e with
  | pinFault c => exact absurd trivial he
  | noDevice | timeout | checksumMismatch | invalidConfig | illegalCommand => simp [OpError.code]

theorem OpError.shownIn_of_unfaulted {e : OpError} (he : ¬ e.isPinFault) {t : State} (h : Unfaulted t) :
    e.ShownIn t := by
  cases e with
  | pinFault c => exact absurd trivial he
  | noDevice | timeout | checksumMismatch | invalidConfig | illegalCommand => exact h

section Compose

variable {α β : Type} {x : Op α} {f : α → Op β}

theorem ShowsFaults.pure (a : α) : ShowsFaults (pure a : Op α) := fun _ => id

theorem ShowsFaults.raise {e : OpError} (he : ¬ e.isPinFault) : ShowsFaults (raise e : Op α) := fun _ =>
  OpError.shownIn_of_unfaulted he

theorem ShowsFaults.bind (hx : ShowsFaults x) (hf : ∀ a, ShowsFaults (f a)) : ShowsFaults (x >>= f) := by
  intro s hs
  have h := hx s hs
  match hr : x s with
  | .ok a t =>
    rw [hr] at h
    rw [op_bind_ok hr]
    exact hf a t h
  | .error e t =>
    rw [hr] at h
    rw [op_bind_error hr]
    exact h.error

theorem ShowsFaults.get_bind {f : State → Op β} (hf : ∀ s, ShowsFaults (f s)) : ShowsFaults (get >>= f) :=
  .bind (fun _ => id) hf

theorem ShowsFaults.modify {f : State → State} (hf : ∀ s, (f s).trace = s.trace ∧ (f s).ecode = s.ecode) :
    ShowsFaults (modify f : Op Unit) := fun s hs => hs.of_eq (hf s).1 (hf s).2

end Compose

/-! ### Pin events and delays -/

theorem settleFrom_showsFault (left : Nat) (l : List Input) {s : State} (hs : Unfaulted s) :
    ShowsFault (settleFrom left l s) := by
  induction l generalizing s with
  | nil => exact hs
  | cons x rest ih =>
    match x with
    | .pins p => exact hs
    | .host h => exact hs
    | .during (.rst t) => exact Unfaulted.abandon (s := { s with inputs := rest }) (hs.of_eq rfl rfl) left t
    | .during (.write off d) => exact ih (s := { s with inputs := rest }) (hs.of_eq rfl rfl)
    | .during (.read off) => exact ih (s := { s with inputs := rest }.readReg off) (hs.of_eq rfl rfl)

theorem settle_showsFaults (left : Nat) : ShowsFaults (settle left) := fun s hs =>
  settleFrom_showsFault left s.inputs hs

theorem Unfaulted.look {s : State} (h : Unfaulted s) : Unfaulted s.look.2 :=
  h.of_eq (by unfold State.look; split <;> rfl) (look_working s).ecode

/-- R126: a faulted look ends the procedure and is the last event. -/
theorem pinEvent_showsFaults {act : Bool → State → State} (hact : ∀ b s, Unfaulted s → Unfaulted (act b s)) :
    ShowsFaults (pinEvent act) := by
  intro s hs
  have h := settle_showsFaults 0 s hs
  unfold pinEvent
  match hr : settle 0 s with
  | .error e t => rw [hr] at h; exact h.error
  | .ok _ t =>
    rw [hr] at h
    by_cases hp : t.look.1.pinFault = true
    · simp only [hp, if_true]
      exact ⟨_, rfl, h.look.trace⟩
    · simp only [hp]
      exact hact _ _ h.look

theorem pinLow_showsFaults : ShowsFaults pinLow :=
  .bind (pinEvent_showsFaults fun _ _ h => h.of_cons (e := .low) nofun rfl rfl) fun _ => .pure _

theorem pinRelease_showsFaults : ShowsFaults pinRelease :=
  .bind (pinEvent_showsFaults fun _ _ h => h.of_cons (e := .release) nofun rfl rfl) fun _ => .pure _

theorem pinSample_showsFaults : ShowsFaults pinSample := pinEvent_showsFaults fun b _ h =>
  h.of_cons (e := .sample b) nofun rfl rfl

theorem delay_showsFaults (t : Nat) : ShowsFaults (delay t) :=
  .bind (settle_showsFaults t) fun _ _ h => h.of_cons (e := .delay t) nofun rfl rfl

theorem awaitFrom_showsFault (l : List Input) {s : State} (hs : Unfaulted s) : ShowsFault (awaitFrom l s) := by
  induction l generalizing s with
  | nil => exact hs
  | cons x rest ih =>
    match x with
    | .host h => exact hs
    | .during (.rst t) => exact Unfaulted.abandon (s := { s with inputs := rest }) (hs.of_eq rfl rfl) 0 t
    | .during (.write off d) => exact ih (s := { s with inputs := rest }) (hs.of_eq rfl rfl)
    | .during (.read off) => exact ih (s := { s with inputs := rest }.readReg off) (hs.of_eq rfl rfl)
    | .pins p =>
      unfold awaitFrom
      by_cases hp : p.pinFault = true
      · simp only [hp, if_true]
        exact ⟨_, rfl, hs.trace⟩
      · by_cases hl : p.owIn = true
        · simp only [hp, hl, if_true]
          exact hs.of_cons (e := .awaited) nofun rfl rfl
        · simp only [hp, hl]
          exact ih (hs.of_eq rfl rfl)

theorem awaitHigh_showsFaults : ShowsFaults awaitHigh := fun s hs =>
  awaitFrom_showsFault s.inputs (hs.of_eq rfl rfl)

/-! ### The timing primitives and the codec -/

theorem initSeq_showsFaults (P : Profile) : ShowsFaults (initSeq P) :=
  .bind awaitHigh_showsFaults fun _ => .bind pinLow_showsFaults fun _ => .bind (delay_showsFaults _) fun _ =>
  .bind pinRelease_showsFaults fun _ => .bind (delay_showsFaults _) fun _ => .bind pinSample_showsFaults fun _ =>
  .bind (.modify fun _ => ⟨rfl, rfl⟩) fun _ => .bind (delay_showsFaults _) fun _ => .pure _

theorem readBit_showsFaults (P : Profile) : ShowsFaults (readBit P) :=
  .bind pinLow_showsFaults fun _ => .bind (delay_showsFaults _) fun _ => .bind pinRelease_showsFaults fun _ =>
  .bind (delay_showsFaults _) fun _ => .bind pinSample_showsFaults fun _ => .bind (delay_showsFaults _) fun _ =>
  .pure _

theorem writeBit_showsFaults (P : Profile) (b : Bool) : ShowsFaults (writeBit P b) :=
  .bind pinLow_showsFaults fun _ => .bind (delay_showsFaults _) fun _ => .bind pinRelease_showsFaults fun _ =>
  delay_showsFaults _

theorem readBits_showsFaults (n : Nat) (acc : Byte) : ShowsFaults (readBits n acc) := by
  induction n generalizing acc with
  | zero => exact .pure _
  | succ n ih => exact .bind (readBit_showsFaults _) fun _ => ih _

theorem readByte_showsFaults : ShowsFaults readByte := readBits_showsFaults _ _

theorem writeBits_showsFaults (l : List Bool) : ShowsFaults (writeBits l) := by
  induction l with
  | nil => exact .pure _
  | cons b r ih => exact .bind (writeBit_showsFaults _ b) fun _ => ih

theorem writeByte_showsFaults (v : Byte) : ShowsFaults (writeByte v) := writeBits_showsFaults _

theorem busRead_showsFaults (n : Nat) : ShowsFaults (busRead n) := by
  induction n with
  | zero => exact .pure _
  | succ n ih => exact .bind readByte_showsFaults fun _ => .bind ih fun _ => .pure _

theorem busWrite_showsFaults (l : List Byte) : ShowsFaults (busWrite l) := by
  induction l with
  | nil => exact .pure _
  | cons v r ih => exact .bind (writeByte_showsFaults v) fun _ => ih

/-! ### Checks, addressing, search, function commands -/

theorem checkCrc_showsFaults (data : List Byte) : ShowsFaults (checkCrc data) := by
  unfold checkCrc
  split
  · exact .pure _
  · exact .raise id

theorem checkAddr_showsFaults : ShowsFaults checkAddr := .get_bind fun _ => checkCrc_showsFaults _

theorem validateConfig_showsFaults (v : Byte) : ShowsFaults (validateConfig v) := by
  unfold validateConfig
  split
  · exact .pure _
  · exact .raise id

theorem bufConfigCheck_showsFaults : ShowsFaults bufConfigCheck :=
  .get_bind fun _ => .bind (validateConfig_showsFaults _) fun _ => .pure _

theorem prologue_showsFaults : ShowsFaults prologue :=
  .bind (initSeq_showsFaults _) fun p => by
    cases p with
    | false => exact .raise id
    | true => exact .pure _

theorem skipStep_showsFaults : ShowsFaults skipStep := .bind prologue_showsFaults fun _ => writeByte_showsFaults _

theorem matchStep_showsFaults : ShowsFaults matchStep :=
  .bind prologue_showsFaults fun _ => .bind (writeByte_showsFaults _) fun _ => .get_bind fun _ =>
  busWrite_showsFaults _

theorem searchFrom_showsFaults (m : Word64) (last : Option Nat) (n i : Nat) (a wmask : Word64) :
    ShowsFaults (searchFrom m last n i a wmask) := by
  induction n generalizing i a wmask with
  | zero => exact .pure _
  | succ n ih =>
    refine .bind (readBit_showsFaults _) fun r1 => .bind (readBit_showsFaults _) fun r2 => ?_
    split
    · exact .raise id
    · exact .bind (writeBit_showsFaults _ _) fun _ => ih _ _ _

theorem searchBody_showsFaults (c : Byte) : ShowsFaults (searchBody c) :=
  .bind (.modify fun _ => ⟨rfl, rfl⟩) fun _ => .get_bind fun _ => .bind prologue_showsFaults fun _ =>
  .bind (writeByte_showsFaults c) fun _ => .bind (searchFrom_showsFaults _ _ _ _ _ _) fun _ =>
  .bind (checkCrc_showsFaults _) fun _ => .modify fun _ => ⟨rfl, rfl⟩

theorem addrOperandCheck_showsFaults (am : AddrMode) : ShowsFaults (addrOperandCheck am) := by
  cases am with
  | noAddr | skipAddr => exact .pure _
  | matchAddr => exact checkAddr_showsFaults

theorem addressing_showsFaults (am : AddrMode) : ShowsFaults (addressing am) := by
  cases am with
  | noAddr => exact .pure _
  | skipAddr => exact skipStep_showsFaults
  | matchAddr => exact matchStep_showsFaults

theorem functionFrame_showsFaults (am : AddrMode) {check body : Op Unit} (c : Byte) (hcheck : ShowsFaults check)
    (hbody : ShowsFaults body) : ShowsFaults (functionFrame am check c body) :=
  .bind (addrOperandCheck_showsFaults am) fun _ => .bind hcheck fun _ => .bind (addressing_showsFaults am) fun _ =>
  .bind (writeByte_showsFaults c) fun _ => hbody

theorem pollFrom_showsFaults (n : Nat) : ShowsFaults (pollFrom n) := by
  induction n with
  | zero => exact .raise id
  | succ n ih =>
    refine .bind (readBit_showsFaults _) fun b => ?_
    cases b with
    | false => exact ih
    | true => exact .modify fun _ => ⟨rfl, rfl⟩

theorem readSpTail_showsFaults : ShowsFaults readSpTail :=
  .bind (busRead_showsFaults 9) fun _ => .bind (checkCrc_showsFaults _) fun _ =>
  .bind (validateConfig_showsFaults _) fun _ => .modify fun _ => ⟨rfl, rfl⟩

theorem readRomBody_showsFaults : ShowsFaults readRomBody :=
  .bind prologue_showsFaults fun _ => .bind (writeByte_showsFaults _) fun _ => .bind (busRead_showsFaults 8) fun _ =>
  .bind (checkCrc_showsFaults _) fun _ => .modify fun _ => ⟨rfl, rfl⟩

theorem withCount_showsFaults (i : Instr) (n : BitVec 4) {body : Op Unit} (hbody : ShowsFaults body) :
    ShowsFaults (withCount i n body) := by
  unfold withCount
  split
  · exact hbody
  · exact .raise id

/-! ### The operations -/

theorem exec_showsFaults (i : Instr) : ∃ body, exec i = operation (encode i) body ∧ ShowsFaults body := by
  cases i with
  | nop => exact ⟨_, rfl, .pure _⟩
  | init => exact ⟨_, rfl, .bind (initSeq_showsFaults _) fun _ => .pure _⟩
  | rbit => exact ⟨_, rfl, .bind (readBit_showsFaults _) fun _ => .modify fun _ => ⟨rfl, rfl⟩⟩
  | wbit b => exact ⟨_, rfl, writeBit_showsFaults _ b⟩
  | rbyte => exact ⟨_, rfl, .bind readByte_showsFaults fun _ => .modify fun _ => ⟨rfl, rfl⟩⟩
  | wbyte v => exact ⟨_, rfl, writeByte_showsFaults v⟩
  | rbytes n =>
    exact ⟨_, rfl, withCount_showsFaults _ n <| .bind (busRead_showsFaults _) fun _ => .modify fun _ => ⟨rfl, rfl⟩⟩
  | wbytes n => exact ⟨_, rfl, withCount_showsFaults _ n <| .get_bind fun _ => busWrite_showsFaults _⟩
  | crc n => exact ⟨_, rfl, withCount_showsFaults _ n <| .modify fun _ => ⟨rfl, rfl⟩⟩
  | crcchk n => exact ⟨_, rfl, withCount_showsFaults _ n <| .get_bind fun _ => checkCrc_showsFaults _⟩
  | readRom => exact ⟨_, rfl, readRomBody_showsFaults⟩
  | matchRom => exact ⟨_, rfl, .bind checkAddr_showsFaults fun _ => matchStep_showsFaults⟩
  | skipRom => exact ⟨_, rfl, skipStep_showsFaults⟩
  | searchRom | alarmSearch => exact ⟨_, rfl, searchBody_showsFaults _⟩
  | convertT am => exact ⟨_, rfl, functionFrame_showsFaults am _ (.pure _) (.pure _)⟩
  | recallE2 am => exact ⟨_, rfl, functionFrame_showsFaults am _ (.pure _) (pollFrom_showsFaults _)⟩
  | readPower am =>
    exact ⟨_, rfl, functionFrame_showsFaults am _ (.pure _)
      (.bind (readBit_showsFaults _) fun _ => .modify fun _ => ⟨rfl, rfl⟩)⟩
  | copySp am => exact ⟨_, rfl, functionFrame_showsFaults am _ (.pure _) (delay_showsFaults _)⟩
  | readSp am => exact ⟨_, rfl, functionFrame_showsFaults am _ (.pure _) readSpTail_showsFaults⟩
  | writeSp am =>
    exact ⟨_, rfl, functionFrame_showsFaults am _ bufConfigCheck_showsFaults
      (.get_bind fun _ => busWrite_showsFaults _)⟩

/-- The indication and the trace agree on whether there was a pin fault, which is the last event. -/
structure FaultReported (t : State) : Prop where
  shown    : t.ecode = 1#4 → t.trace.head? = some (.faulted t.einfo)
  reported : ∀ c, t.trace.head? = some (.faulted c) → t.ecode = 1#4 ∧ t.einfo = c
  last     : Faultless t.trace.tail

theorem Unfaulted.faultReported {t : State} (h : Unfaulted t) : FaultReported t :=
  ⟨fun hcode => absurd hcode h.ecode, fun c hc => absurd (List.mem_of_mem_head? hc) (h.trace c),
    fun c hc => h.trace c (List.mem_of_mem_tail hc)⟩

theorem raiseError_unfaulted {e : OpError} (he : ¬ e.isPinFault) {t : State} (h : Unfaulted t) :
    Unfaulted (t.raiseError e) := ⟨h.trace, OpError.code_ne_one he⟩

/-- R262: the error end reports the fault the trace ends with, and no other error as one. -/
theorem OpError.ShownIn.faultReported {e : OpError} {t : State} (h : e.ShownIn t) : FaultReported (t.raiseError e) := by
  cases e with
  | pinFault c =>
    obtain ⟨l, htrace, hl⟩ := h
    refine ⟨fun _ => ?_, fun d hd => ⟨rfl, ?_⟩, ?_⟩
    · simp [htrace, OpError.info]
    · simpa [htrace, OpError.info] using hd
    · simpa [htrace] using hl
  | noDevice | timeout | checksumMismatch | invalidConfig | illegalCommand =>
    exact (raiseError_unfaulted id h).faultReported

theorem operate_faultReported {body : Op Unit} (h : ShowsFaults body) (w : Word) (s : State) :
    FaultReported (s.operate w body) := by
  have hends := h (s.accept w) ⟨nofun, nofun⟩
  unfold State.operate
  match hr : body (s.accept w) with
  | .ok _ t => rw [hr] at hends; exact Unfaulted.faultReported ⟨hends.trace, nofun⟩
  | .error (.raised e) t => rw [hr] at hends; exact hends.faultReported
  | .error .waiting t => rw [hr] at hends; exact hends.faultReported
  | .error .rst t => rw [hr] at hends; exact hends.faultReported

/-- Settles O22: `exec_showsFaults` says what the operation's procedure leaves in the trace, `operate_faultReported`
what its end makes of it. An abandoned operation shows no fault either, so that no `rst` comes is not needed. -/
theorem faultedEventIsTheLastOne : Obligations.FaultedEventIsTheLastOne := by
  intro i s t _ hexec
  obtain ⟨body, hbody, hshows⟩ := exec_showsFaults i
  rw [hbody] at hexec
  obtain rfl : s.operate (encode i) body = t := Host.Outcome.next.inj hexec
  obtain ⟨hshown, hreported, hlast⟩ := operate_faultReported hshows (encode i) s
  exact ⟨hshown, hreported, hlast⟩

end Sys2Proof.Machine

/-! ## Bytes on a line that answers (R146 to R149) -/

namespace Sys2Proof.Machine

theorem readByte_at {s : State} {w : Word} {n : Nat} {tr : List PinEvent} {q : Seq} {h : Hidden}
    (hq : s.quiet (n + 24)) :
    readByte (s.at_ w n tr q h) = .ok (s.byteAt n) (s.at_ w (n + 24) (tr ++ readByteTrace (s.byteAt n)) q h) := by
  rw [readByte_quiet (quiet_at hq), at_ran, byteAt_at, Nat.add_zero]

theorem rbyteBody_at {s : State} {w : Word} {q : Seq} {h : Hidden} (hq : s.quiet 24) :
    rbyteBody (s.at_ w 0 [] q h) = .ok ()
      { s.at_ w 24 (readByteTrace (s.byteAt 0)) q h with data := s.byteAt 0 } := by
  rw [rbyteBody, op_bind_ok (readByte_at (n := 0) hq), op_modify]
  rfl

/-- Settles O27: eight slots on a quiet line, bit 0 first, then the end. -/
theorem byteOperationsAreLsbFirst : Obligations.ByteOperationsAreLsbFirst :=
  ⟨fun _ hq => congrArg Host.Outcome.next (operate_ok (rbyteBody_at hq)),
    fun _ v hq => congrArg Host.Outcome.next (operate_ok (writeByte_at v (n := 0) (tr := []) hq))⟩

theorem rbytesBody_at (n : Nat) {s : State} {w : Word} {q : Seq} {h : Hidden} (hq : s.quiet (24 * n)) :
    rbytesBody n (s.at_ w 0 [] q h) = .ok ()
      { s.at_ w (24 * n) (readBytesTrace (s.bytesAt 0 n)) q h with buf := storeBytes s.buf 0 (s.bytesAt 0 n) } := by
  have hq' : s.quiet (0 + 24 * n) := by rwa [Nat.zero_add]
  rw [rbytesBody, op_bind_ok (busRead_at n hq'), op_modify, Nat.zero_add]
  rfl

theorem wbytesBody_at {n : Nat} (hn : n ≤ 9) {s : State} {w : Word} {q : Seq} {h : Hidden} (hq : s.quiet (16 * n)) :
    wbytesBody n (s.at_ w 0 [] q h) = .ok () (s.at_ w (16 * n) (writeBytesTrace (s.bufPrefix n)) q h) := by
  have hlen : (s.bufPrefix n).length = n := by simp [State.bufPrefix, hn]
  have hq' : s.quiet (0 + 16 * (s.bufPrefix n).length) := by rwa [Nat.zero_add, hlen]
  have hw := busWrite_at (s.bufPrefix n) (w := w) (tr := []) (q := q) (h := h) hq'
  rw [Nat.zero_add, hlen, List.nil_append] at hw
  rw [wbytesBody, op_bind_ok (op_get _)]
  exact hw

/-- R91: a count up to 9 is legal, the operation runs its procedure. -/
theorem withCount_of_le (i : Instr) {n : BitVec 4} (hn : n.toNat ≤ 9) (body : Op Unit) : withCount i n body = body :=
  if_pos (decide_eq_true hn)

/-- R148: the bytes read stand at the front of `BUF`, the rest is as before. -/
theorem storeBytes_bytesAt (s : State) (buf : Vector Byte 9) (n k : Nat) (hk : k < 9) :
    (storeBytes buf 0 (s.bytesAt 0 n))[k] = if k < n then s.byteAt (24 * k) else buf[k] := by
  by_cases hkn : k < n
  · simp [storeBytes, State.bytesAt, hkn]
  · simp [storeBytes, hkn]

/-- Settles O28: bytes on a quiet line in index order, the bytes read stored from `BUF[0]` on, then the end. -/
theorem transfersMoveAPrefixOfBuf : Obligations.TransfersMoveAPrefixOfBuf := by
  intro s n hn
  constructor
  · intro hq
    refine ⟨storeBytes s.buf 0 (s.bytesAt 0 n.toNat), ?_, storeBytes_bytesAt s s.buf n.toNat⟩
    rw [exec, execRbytes, withCount_of_le _ hn]
    exact congrArg Host.Outcome.next (operate_ok (rbytesBody_at n.toNat hq))
  · intro hq
    rw [exec, execWbytes, withCount_of_le _ hn]
    exact congrArg Host.Outcome.next (operate_ok (wbytesBody_at hn hq))

end Sys2Proof.Machine

/-! ## The CRC of a byte sequence (R155 to R157, R161)

A shift step can be undone, so the remainder after a block depends on every byte of the block. -/

namespace Sys2Proof.Machine

@[simp] theorem crcFrom_nil (c : Byte) : crcFrom c [] = c := rfl

@[simp] theorem crcFrom_cons (c v : Byte) (r : List Byte) : crcFrom c (v :: r) = crcFrom (crcByte c v) r := rfl

@[simp] theorem crcFrom_append (c : Byte) (l r : List Byte) : crcFrom c (l ++ r) = crcFrom (crcFrom c l) r :=
  List.foldl_append

@[simp] theorem crcShift_zero : crcShift 0#8 = 0#8 := rfl

@[simp] theorem crcShifts_zero_byte (n : Nat) : crcShifts n 0#8 = 0#8 := by
  induction n with
  | zero => rfl
  | succ n ih => rw [crcShifts, crcShift_zero, ih]

/-- A byte equal to the remainder clears it. -/
@[simp] theorem crcByte_self (c : Byte) : crcByte c c = 0#8 := by
  rw [crcByte, BitVec.xor_self, crcShifts_zero_byte]

/-- Settles O47: the last byte is the remainder before it. -/
theorem crcOfDataAndItsCrcIsZero : Obligations.CrcOfDataAndItsCrcIsZero := by
  intro d
  rw [crc8, crcFrom_append, crcFrom_cons, crcFrom_nil]
  exact crcByte_self (crc8 d)

/-! ### The bit-serial form (R155) -/

/-- A shift step with `v` in the remainder takes in bit 0 of `v`; the other bits of `v` move down unchanged. -/
theorem crcShift_xor (c v : Byte) : crcShift (c ^^^ v) = crcBit c (v.getLsbD 0) ^^^ v >>> 1 := by
  simp only [crcShift, crcBit, BitVec.getLsbD_xor, BitVec.ushiftRight_xor_distrib]
  split
  · ac_rfl
  · rfl

/-- The bits of `v` below bit `n`, bit 0 first. -/
def lowBits (n : Nat) (v : Byte) : List Bool := (List.range n).map v.getLsbD

theorem bitsOf_eq_lowBits (v : Byte) : bitsOf v = lowBits 8 v := rfl

theorem lowBits_succ (n : Nat) (v : Byte) : lowBits (n + 1) v = v.getLsbD 0 :: lowBits n (v >>> 1) := by
  simp [lowBits, List.range_succ_eq_map, Function.comp_def, Nat.add_comm]

/-- After `n` shift steps the `n` low bits of `v` have gone in; the rest of `v` is still to come. -/
theorem crcShifts_xor (n : Nat) (c v : Byte) :
    crcShifts n (c ^^^ v) = (lowBits n v).foldl crcBit c ^^^ v >>> n := by
  induction n generalizing c v with
  | zero => simp [crcShifts, lowBits]
  | succ n ih =>
    calc crcShifts (n + 1) (c ^^^ v)
        = crcShifts n (crcBit c (v.getLsbD 0) ^^^ v >>> 1) := by rw [crcShifts, crcShift_xor]
      _ = (lowBits n (v >>> 1)).foldl crcBit (crcBit c (v.getLsbD 0)) ^^^ v >>> 1 >>> n := ih _ _
      _ = (lowBits (n + 1) v).foldl crcBit c ^^^ v >>> (n + 1) := by
        rw [lowBits_succ, List.foldl_cons, Nat.add_comm n 1, BitVec.shiftRight_add]

/-- One byte, bit by bit. -/
theorem foldl_crcBit_bitsOf (c v : Byte) : (bitsOf v).foldl crcBit c = crcByte c v := by
  have hv : v >>> 8 = 0#8 := BitVec.ushiftRight_eq_zero (Nat.le_refl 8)
  rw [crcByte, crcShifts_xor, hv, BitVec.xor_zero, bitsOf_eq_lowBits]

/-- Settles O48: byte by byte. -/
theorem crcSerialFormAgrees : Obligations.CrcSerialFormAgrees := by
  intro c d
  induction d generalizing c with
  | nil => rfl
  | cons v d ih => rw [List.flatMap_cons, List.foldl_append, foldl_crcBit_bitsOf, ih, crcFrom_cons]

/-! ### A changed byte changes the remainder (R161) -/

/-- The bit shifted out stays visible: bit 7 of the polynomial 0x8C is 1. -/
theorem crcShift_getLsbD_seven (c : Byte) : (crcShift c).getLsbD 7 = c.getLsbD 0 := by
  rw [crcShift]
  cases c.getLsbD 0 <;> simp

theorem crcShift_injective : Function.Injective crcShift := by
  intro a b h
  have hbit : a.getLsbD 0 = b.getLsbD 0 := by rw [← crcShift_getLsbD_seven, h, crcShift_getLsbD_seven]
  have hrest : a >>> 1 = b >>> 1 := by
    rw [crcShift, crcShift, hbit] at h
    split at h
    · exact (BitVec.xor_left_inj _).1 h
    · exact h
  apply BitVec.eq_of_getLsbD_eq
  intro i _
  match i with
  | 0 => exact hbit
  | i + 1 =>
    have hi : (a >>> 1).getLsbD i = (b >>> 1).getLsbD i := by rw [hrest]
    rwa [BitVec.getLsbD_ushiftRight, BitVec.getLsbD_ushiftRight, Nat.add_comm 1 i] at hi

theorem crcShifts_injective (n : Nat) : Function.Injective (crcShifts n) := by
  induction n with
  | zero => exact Function.injective_id
  | succ n ih => exact ih.comp crcShift_injective

@[simp] theorem crcByte_right_inj (c v w : Byte) : crcByte c v = crcByte c w ↔ v = w :=
  (crcShifts_injective 8).eq_iff.trans (BitVec.xor_right_inj c)

@[simp] theorem crcByte_left_inj (c d v : Byte) : crcByte c v = crcByte d v ↔ c = d :=
  (crcShifts_injective 8).eq_iff.trans (BitVec.xor_left_inj v)

@[simp] theorem crcFrom_inj (c d : Byte) (r : List Byte) : crcFrom c r = crcFrom d r ↔ c = d := by
  induction r generalizing c d with
  | nil => rfl
  | cons v r ih => rw [crcFrom_cons, crcFrom_cons, ih, crcByte_left_inj]

/-- Two blocks that differ in one byte at most have the same CRC only if they agree in it. -/
theorem crc8_append_cons_inj (l r : List Byte) (v w : Byte) : crc8 (l ++ v :: r) = crc8 (l ++ w :: r) ↔ v = w := by
  simp [crc8]

theorem xor_twoPow_ne (v : Byte) {k : Nat} (hk : k < 8) : v ^^^ BitVec.twoPow 8 k ≠ v := by
  intro h
  have hbit : (v ^^^ BitVec.twoPow 8 k).getLsbD k = v.getLsbD k := by rw [h]
  simp [hk] at hbit

theorem crc8_replicate_zero (n : Nat) : crc8 (List.replicate n 0x00#8) = 0#8 := by
  rw [crc8]
  induction n with
  | zero => rfl
  | succ n ih => rw [List.replicate_succ, crcFrom_cons, crcByte_self, ih]

/-- Settles O49: the values by evaluation, the flipped bit by injectivity. -/
theorem crcPropertiesOfR161 : Obligations.CrcPropertiesOfR161 := by
  have hflip : ∀ (l r : List Byte) (v : Byte) (k : Nat), k < 8 →
      crc8 (l ++ (v ^^^ BitVec.twoPow 8 k) :: r) ≠ crc8 (l ++ v :: r) :=
    fun l r v _ hk h => xor_twoPow_ne v hk ((crc8_append_cons_inj l r _ v).1 h)
  refine ⟨crc8_replicate_zero, ?_, ?_, ?_, ?_, ?_, ?_, hflip⟩ <;> decide +kernel

end Sys2Proof.Machine

/-! ## `CRC` and `CRCCHK` (R158, R159) -/

namespace Sys2Proof.Machine

theorem crcBody_at (n : Nat) (s : State) (w : Word) (q : Seq) (h : Hidden) :
    crcBody n (s.at_ w 0 [] q h) = .ok () { s.at_ w 0 [] q h with crc := crc8 (s.bufPrefix n) } := rfl

theorem crcchkBody_eq (n : Nat) (s : State) : crcchkBody n s = checkCrc (s.bufPrefix n) s := op_bind_ok (op_get s)

/-- Settles O29: a legal count runs the procedure, which computes or checks the remainder without a look at the line. -/
theorem crcOperationsWorkOnAPrefixOfBuf : Obligations.CrcOperationsWorkOnAPrefixOfBuf := by
  intro s n hn
  simp only [exec, execCrc, execCrcchk, withCount_of_le _ hn]
  refine ⟨?_, fun hcrc => ?_, fun hcrc => ?_⟩
  · exact congrArg Host.Outcome.next (operate_ok (crcBody_at n.toNat s _ _ _))
  · exact congrArg Host.Outcome.next (operate_ok ((crcchkBody_eq _ _).trans (checkCrc_ok hcrc _)))
  · exact congrArg Host.Outcome.next (operate_raised ((crcchkBody_eq _ _).trans (checkCrc_bad hcrc _)))

end Sys2Proof.Machine

/-! ## The addressing commands on a line that answers (R170 to R173) -/

namespace Sys2Proof.Machine

/-- R170: the prologue, the command byte and the 8 bytes read; what is left is their check and the commit of `ADDR`. -/
theorem readRomBody_accept (m : Nat) {s : State} (w : Word) {a : Word64} (hq : s.quiet (initAnswers m + 16 + 192))
    (hr : s.risesAfter m) (hp : s.presenceAt m = false) (hbytes : s.bytesAt (initAnswers m + 16) 8 = bytesOf a) :
    readRomBody (s.accept w)
      = (checkCrc (bytesOf a) >>= fun _ => modify fun u => { u with addr := a })
          (s.at_ w (initAnswers m + 16 + 192)
            (initTrace Config.profile false ++ writeByteTrace 0x33#8 ++ readBytesTrace (bytesOf a)) (.rst .low)
            { s.hid with presence := some true, tmr := 0 }) := by
  have hcmd : s.quiet (initAnswers m + 16) := quiet_left hq
  rw [accept_eq_at, readRomBody, op_bind_ok (prologue_at m (quiet_left hcmd) hr hp), op_bind_ok (writeByte_at _ hcmd),
    op_bind_ok (busRead_at 8 hq), hbytes, addrOfBytes_bytesOf]

/-- R242: `finishOk_at` for an operation that has committed `ADDR`. -/
theorem finishOk_at_addr (s : State) (w : Word) (n : Nat) (tr : List PinEvent) (q : Seq) (h : Hidden) (a : Word64) :
    { s.at_ w n tr q h with addr := a }.finishOk
      = s.endedOk w n tr fun u => { u with presence := h.presence.getD s.presence, addr := a } := rfl

/-- Settles O31: the bytes read are those of an address, which is committed if it passes its check. -/
theorem readRomReadsAnAddress : Obligations.ReadRomReadsAnAddress := by
  intro s m a hq hr hp hbytes
  have hbody := readRomBody_accept m 0x33#32 hq hr hp hbytes
  refine ⟨fun hcrc => congrArg Host.Outcome.next ?_, fun hcrc => congrArg Host.Outcome.next ?_⟩
  · rw [op_bind_ok (checkCrc_ok hcrc _), op_modify] at hbody
    exact (operate_ok hbody).trans (finishOk_at_addr ..)
  · rw [op_bind_error (checkCrc_bad hcrc _)] at hbody
    exact (operate_raised hbody).trans (raiseError_at ..)

theorem matchRomBody_at (m : Nat) {s : State} {w : Word} {q : Seq} {h : Hidden}
    (hcrc : crc8 (bytesOf s.addr) = 0#8) (hq : s.quiet (initAnswers m + 16 + 128)) (hr : s.risesAfter m)
    (hp : s.presenceAt m = false) :
    matchRomBody (s.at_ w 0 [] q h) = .ok ()
      (s.at_ w (initAnswers m + 16 + 128) (addrTrace .matchAddr s.addr) (.rst .low)
        { h with presence := some true }) := by
  have hcheck : checkAddr (s.at_ w 0 [] q h) = .ok () (s.at_ w 0 [] q h) := checkCrc_ok hcrc _
  rw [matchRomBody, op_bind_ok hcheck]
  exact addressing_at .matchAddr m ⟨hcrc, hr, hp⟩ hq

/-- Settles O32: the check passes, what follows is the addressing step with `MATCH`. -/
theorem matchRomSendsTheAddress : Obligations.MatchRomSendsTheAddress := by
  intro s m hcrc hq hr hp
  exact congrArg Host.Outcome.next ((operate_ok (matchRomBody_at m hcrc hq hr hp)).trans (finishOk_at ..))

/-- Settles O33: the operation is the addressing step with `SKIP`. -/
theorem skipRomSendsOneByte : Obligations.SkipRomSendsOneByte := by
  intro s m hq hr hp
  exact congrArg Host.Outcome.next ((operate_ok (addressing_at .skipAddr m ⟨hr, hp⟩ hq)).trans (finishOk_at ..))

/-- Settles O42: an operation whose operand checks pass stops with its prologue, and that finds nobody. -/
theorem absentBusEndsWithNoDevice : Obligations.AbsentBusEndsWithNoDevice := by
  intro s m i hi hne haddr hconfig hq hr hp
  obtain ⟨body, h, hexec, -, hstop⟩ := exec_stopsWith_prologue haddr hconfig hi hne
  rw [hexec, operation, operate_raised (hstop _ _ (prologue_absent m hq hr hp)), raiseError_at]

end Sys2Proof.Machine

/-! ## Operand checks (R171, R210, R228, R265) -/

namespace Sys2Proof.Machine

/-- R225: a byte that is no pattern. -/
theorem validateConfig_bad {v : Byte} (h : ∀ idx, v ≠ configByte idx) (s : State) :
    validateConfig v s = .error (.raised (.invalidConfig v)) s := by
  have hnone : configIndex v = none :=
    Option.eq_none_iff_forall_ne_some.2 fun idx hidx => h idx (configByte_of_configIndex hidx)
  simp only [validateConfig, hnone, op_raise]

/-- R228: `BUF[4]` holds no configuration byte. -/
theorem bufConfigCheck_bad {s : State} (h : ∀ idx, s.buf[4] ≠ configByte idx) :
    bufConfigCheck s = .error (.raised (.invalidConfig s.buf[4])) s := by
  have hv := validateConfig_bad h s
  rw [← bufByte_eq_getElem s 4 (by decide)] at hv ⊢
  rw [bufConfigCheck, op_bind_ok (op_get s), op_bind_error hv]

/-- R171, R210: an operation that checks `ADDR` begins with that check. -/
theorem exec_stopsWith_checkAddr {i : Instr} (hi : checksAddr i = true) :
    ∃ body, exec i = operation (encode i) body ∧ ∀ s, StopsWith (checkAddr s) (body s) := by
  have ham : ∀ {am : AddrMode}, (am == .matchAddr) = true → am = .matchAddr := beq_iff_eq.1
  cases i with
  | matchRom => exact ⟨_, rfl, fun _ => .bind (.refl _)⟩
  | convertT am | recallE2 am | readPower am | copySp am | readSp am | writeSp am =>
    obtain rfl := ham hi
    exact ⟨_, rfl, fun _ => .bind (.refl _)⟩
  | nop | init | rbit | wbit b | rbyte | wbyte v | rbytes n | wbytes n | crc n | crcchk n | readRom | skipRom
  | searchRom | alarmSearch => cases hi

/-- R228: an operation that checks `BUF[4]` does so as soon as the check of `ADDR`, if it has one, has passed. -/
theorem exec_stopsWith_bufConfigCheck {i : Instr} (hi : checksConfig i = true) :
    ∃ body, exec i = operation (encode i) body
      ∧ ∀ s, (checksAddr i = true → crc8 (bytesOf s.addr) = 0#8) → StopsWith (bufConfigCheck s) (body s) := by
  cases i with
  | writeSp am =>
    exact ⟨_, rfl, fun _ haddr => .after (addrOperandCheck_ok fun h => haddr (beq_iff_eq.2 h)) (.bind (.refl _))⟩
  | _ => cases hi

/-- R262: an operation that fails in the state it was accepted in shows the error and nothing else. -/
theorem operation_raised_at_once {w : Word} {body : Op Unit} {s : State} {e : OpError}
    (h : body (s.accept w) = .error (.raised e) (s.accept w)) :
    operation w body s = .next (s.endedError w 0 [] none e) :=
  congrArg Host.Outcome.next (operate_raised h)

/-- Settles O43: a failed check stops the operation in the state of its acceptance. -/
theorem operandChecksComeFirst : Obligations.OperandChecksComeFirst := by
  refine ⟨fun s i hi hcrc => ?_, fun s i hi haddr hbuf => ?_⟩
  · obtain ⟨body, hexec, hstop⟩ := exec_stopsWith_checkAddr hi
    rw [hexec]
    exact operation_raised_at_once (hstop _ _ _ (checkCrc_bad hcrc _))
  · obtain ⟨body, hexec, hstop⟩ := exec_stopsWith_bufConfigCheck hi
    rw [hexec]
    exact operation_raised_at_once (hstop (s.accept (encode i)) haddr _ _ (bufConfigCheck_bad hbuf))

end Sys2Proof.Machine

/-! ## The tie-break (R187, R188)

The turning point is the highest set bit of the mask; a position changes the mask in its own bit only. -/

namespace Sys2Proof.Machine

/-! ### The turning point -/

theorem highestBelow_eq_none_iff (m : Word64) (n : Nat) : highestBelow m n = none ↔ ∀ j < n, m.getLsbD j = false := by
  induction n with
  | zero => simp [highestBelow]
  | succ n ih =>
    rw [highestBelow, Nat.forall_lt_succ_right]
    cases m.getLsbD n <;> simp [ih]

theorem highestBelow_eq_some_iff (m : Word64) (n l : Nat) :
    highestBelow m n = some l ↔ l < n ∧ m.getLsbD l = true ∧ ∀ j < n, l < j → m.getLsbD j = false := by
  induction n with
  | zero => simp [highestBelow]
  | succ n ih =>
    rw [highestBelow, Nat.forall_lt_succ_right]
    cases hn : m.getLsbD n with
    | true =>
      simp only [if_true, Option.some.injEq]
      constructor
      · rintro rfl
        exact ⟨Nat.lt_succ_self n, hn, fun j hj hnj => by omega, fun h => by omega⟩
      · rintro ⟨hl, -, -, habove⟩
        by_contra hne
        exact absurd (habove (by omega)) (by simp)
    | false =>
      simp only [Bool.false_eq_true, if_false, ih, implies_true, and_true]
      refine and_congr_left fun ⟨hl, _⟩ => ⟨fun h => by omega, fun h => ?_⟩
      have hne : l ≠ n := by rintro rfl; simp [hn] at hl
      omega

/-- R188: there is no turning point exactly when the mask is 0. -/
theorem highestSet_eq_none_iff (m : Word64) : highestSet m = none ↔ m = 0#64 := by
  rw [highestSet, highestBelow_eq_none_iff]
  exact ⟨fun h => BitVec.eq_of_getLsbD_eq (by simpa using h), by rintro rfl; simp⟩

@[simp] theorem highestSet_zero : highestSet 0#64 = none := (highestSet_eq_none_iff _).2 rfl

/-- R188: the turning point is the highest set bit. -/
theorem highestSet_eq_some_iff (m : Word64) (l : Nat) :
    highestSet m = some l ↔ m.getLsbD l = true ∧ ∀ j, l < j → m.getLsbD j = false := by
  rw [highestSet, highestBelow_eq_some_iff]
  constructor
  · rintro ⟨-, hl, habove⟩
    refine ⟨hl, fun j hj => ?_⟩
    by_cases hj64 : j < 64
    · exact habove j hj64 hj
    · exact BitVec.getLsbD_of_ge m j (by omega)
  · rintro ⟨hl, habove⟩
    exact ⟨BitVec.lt_of_getLsbD hl, hl, fun j _ => habove j⟩

/-! ### The bit chosen -/

/-- No conflict: the bit all slaves agree in. -/
theorem searchChoice_of_agreement (m : Word64) (last : Option Nat) (i : Nat) {r1 r2 : Bool} (h : (r1 || r2) = true) :
    searchChoice m last i r1 r2 = r1 := if_pos h

/-- (a) below the turning point: the earlier choice. -/
theorem searchChoice_below (m : Word64) {l i : Nat} (h : i < l) :
    searchChoice m (some l) i false false = !m.getLsbD i := by simp [searchChoice, belowLast, h]

/-- (b) at the turning point: 1. -/
theorem searchChoice_at (m : Word64) (i : Nat) : searchChoice m (some i) i false false = true := by
  simp [searchChoice, belowLast]

/-- The turning point, if there is one, lies below position `i`. -/
def PastTurn (last : Option Nat) (i : Nat) : Prop := last = none ∨ ∃ l, last = some l ∧ l < i

theorem PastTurn.not_belowLast {last : Option Nat} {i : Nat} (h : PastTurn last i) : belowLast last i = false := by
  rcases h with rfl | ⟨l, rfl, hl⟩
  · rfl
  · simpa [belowLast] using hl.le

theorem PastTurn.ne_some {last : Option Nat} {i : Nat} (h : PastTurn last i) : (last == some i) = false := by
  rcases h with rfl | ⟨l, rfl, hl⟩
  · rfl
  · simpa using hl.ne

/-- (c) above the turning point: 0. -/
theorem searchChoice_pastTurn (m : Word64) {last : Option Nat} {i : Nat} (h : PastTurn last i) :
    searchChoice m last i false false = false := by
  simp [searchChoice, h.not_belowLast, h.ne_some]

/-! ### The mask -/

theorem getLsbD_setBit (a : Word64) {i : Nat} (hi : i < 64) (b : Bool) (j : Nat) :
    (setBit a i b).getLsbD j = if j = i then b else a.getLsbD j := by
  by_cases hji : j = i
  · subst hji
    cases b <;> simp [setBit, hi]
  · rw [if_neg hji]
    by_cases hj : j < 64
    · cases b <;> simp [setBit, hj, hji]
    · rw [BitVec.getLsbD_of_ge _ j (by omega), BitVec.getLsbD_of_ge _ j (by omega)]

/-- What a position makes of its own bit `b` of the mask (R188 (c), (d)). -/
def maskBit (last : Option Nat) (i : Nat) (r1 r2 b : Bool) : Bool :=
  !(last == some i) && (!(r1 || r2) && !belowLast last i || b)

/-- R188: a position changes its own bit of the mask and no other. -/
theorem getLsbD_searchMask (last : Option Nat) {i : Nat} (hi : i < 64) (r1 r2 : Bool) (wmask : Word64) (j : Nat) :
    (searchMask last i r1 r2 wmask).getLsbD j
      = if j = i then maskBit last i r1 r2 (wmask.getLsbD i) else wmask.getLsbD j := by
  unfold searchMask maskBit
  split
  · next h => simp [getLsbD_setBit _ hi, h]
  · next h =>
    split
    · next h' => rw [getLsbD_setBit _ hi, h']; simp [h]
    · next h' =>
      rw [Bool.eq_false_of_not_eq_true h, Bool.eq_false_of_not_eq_true h']
      split <;> simp [*]

/-- R188: below the turning point, or above it without a conflict, the mask stays. -/
theorem searchMask_eq_self {last : Option Nat} {i : Nat} (hlast : last ≠ some i) {r1 r2 : Bool}
    (h : belowLast last i = true ∨ (r1 || r2) = true) (wmask : Word64) : searchMask last i r1 r2 wmask = wmask := by
  rcases h with h | h <;> simp [searchMask, hlast, h]

/-- Settles O53: the turning point, the choice in the four cases, and the one bit of the mask that may change. -/
theorem tieBreakFollowsTheFourCases : Obligations.TieBreakFollowsTheFourCases := by
  refine ⟨fun m => ⟨highestSet_eq_none_iff m, highestSet_eq_some_iff m⟩, fun m wmask last i hi => ?_⟩
  refine ⟨fun r1 r2 => searchChoice_of_agreement m last i, ?_, ?_, fun hpast => ?_, ?_, fun hlast r1 r2 h =>
    searchMask_eq_self hlast (.inr h) wmask⟩
  · rintro l rfl hl
    exact ⟨searchChoice_below m hl, searchMask_eq_self (by simpa using hl.ne') (.inl (by simp [belowLast, hl])) wmask⟩
  · rintro rfl
    exact searchChoice_at m i
  · have hpast : PastTurn last i := hpast
    refine ⟨searchChoice_pastTurn m hpast, ?_, fun j hj => ?_⟩
    · simp [getLsbD_searchMask last hi, maskBit, hpast.not_belowLast, hpast.ne_some]
    · rw [getLsbD_searchMask last hi, if_neg hj]
  · rintro rfl r1 r2
    refine ⟨?_, fun j hj => ?_⟩
    · simp [getLsbD_searchMask (some i) hi, maskBit]
    · rw [getLsbD_searchMask (some i) hi, if_neg hj]

end Sys2Proof.Machine

/-! ## A search pass on a line that answers (R190, R191) -/

namespace Sys2Proof.Machine

/-- The command byte of the two search operations (R97). -/
def searchCmdByte (i : Instr) : Byte := if i = .searchRom then 0xF0#8 else 0xEC#8

/-- R191: the two operations differ in their command byte only. -/
theorem exec_search {i : Instr} (hi : i = .searchRom ∨ i = .alarmSearch) (s : State) :
    exec i s = .next (s.operate (encode i) (searchBody (searchCmdByte i))) := by
  rcases hi with rfl | rfl <;> rfl

/-- R190: what is left of a search after its command byte. -/
def searchTail (mask : Word64) : Op Unit := do
  let r ← searchFrom mask (highestSet mask) 64 0 0#64 mask
  checkCrc (bytesOf r.1)
  modify (State.commitSearch r.1 r.2)

/-- The working state of a pass after its prologue (R190, R264). -/
def State.passHid (s : State) : Hidden :=
  { s.hid with
      wmask := s.conflict, lastPos := highestSet s.conflict, stg := 0#72, crcw := 0#8, presence := some true, tmr := 0 }

/-- R190: the start of the pass, the prologue and the command byte. -/
theorem searchBody_accept (m : Nat) (c : Byte) {s : State} (w : Word) (hq : s.quiet (initAnswers m + 16))
    (hr : s.risesAfter m) (hp : s.presenceAt m = false) :
    searchBody c (s.accept w)
      = searchTail s.conflict (s.at_ w (initAnswers m + 16) (initTrace Config.profile false ++ writeByteTrace c)
          (.rst .low) s.passHid) := by
  rw [accept_eq_at, searchBody, op_bind_ok (startPass_at s w _), op_bind_ok (op_get _),
    op_bind_ok (prologue_at m (quiet_left hq) hr hp), op_bind_ok (writeByte_at c hq)]
  rfl

theorem tripletsFrom_zero (mask : Word64) (rd : Reads) (c : Nat) :
    tripletsFrom mask rd 0 c = (List.range c).flatMap (tripletTrace mask rd) := by
  rw [tripletsFrom, List.range_eq_range']

/-- R190: 64 triplets without a `(1,1)` pair; what is left is the check of the address and the commit. -/
theorem searchTail_at {s : State} {w : Word} {n : Nat} {tr : List PinEvent} {q : Seq} {h : Hidden}
    {mask a wmask : Word64} (hq : s.quiet (n + 512)) (hpass : searchPass mask (s.readsAt n) = some (a, wmask)) :
    searchTail mask (s.at_ w n tr q h)
      = (checkCrc (bytesOf a) >>= fun _ => modify (State.commitSearch a wmask))
          (s.at_ w (n + 512) (tr ++ tripletsTrace mask (s.readsAt n)) q h) := by
  have hrd : ∀ j, j < 64 → s.readsAt n (0 + j) = (s.readAt (n + 8 * j), s.readAt (n + 8 * j + 3)) := fun j _ => by
    rw [Nat.zero_add, State.readsAt]
  rw [searchTail, op_bind_ok (searchFrom_ok mask 64 hq hrd hpass), tripletsFrom_zero]
  rfl

/-- R187: the first `(1,1)` pair ends the pass. -/
theorem searchTail_nobody {s : State} {w : Word} {n k : Nat} {tr : List PinEvent} {q : Seq} {h : Hidden} (mask : Word64)
    (hk : k < 64) (hq : s.quiet (n + 8 * k + 6)) (hbefore : ∀ j, j < k → s.readsAt n j ≠ (true, true))
    (hnobody : s.readsAt n k = (true, true)) :
    searchTail mask (s.at_ w n tr q h) = .error (.raised .noDevice)
      (s.at_ w (n + 8 * k + 6) (tr ++ (List.range k).flatMap (tripletTrace mask (s.readsAt n))
        ++ readSlotTrace Config.profile true ++ readSlotTrace Config.profile true) q h) := by
  have hrd : ∀ j, j ≤ k → s.readsAt n (0 + j) = (s.readAt (n + 8 * j), s.readAt (n + 8 * j + 3)) := fun j _ => by
    rw [Nat.zero_add, State.readsAt]
  have hfail := searchFrom_nobody mask k (c := 64) (i := 0) (a := 0#64) (wmask := mask) (tr := tr) (w := w) (q := q)
    (h := h) hk hq hrd (fun j hj => by rw [Nat.zero_add]; exact hbefore j hj) (by rwa [Nat.zero_add])
  rw [searchTail, op_bind_error hfail, tripletsFrom_zero]

/-- R190, R242: `finishOk_at` for a pass that has committed its results. -/
theorem finishOk_at_search (s : State) (w : Word) (n : Nat) (tr : List PinEvent) (q : Seq) (h : Hidden)
    (a wmask : Word64) :
    ((s.at_ w n tr q h).commitSearch a wmask).finishOk
      = s.endedOk w n tr fun u =>
          { u with presence := h.presence.getD s.presence, addr := a, conflict := wmask, last := wmask == 0#64 } := rfl

/-- Settles O34: the address of the pass is committed if it passes its check. -/
theorem searchPassDeliversItsAddress : Obligations.SearchPassDeliversItsAddress := by
  intro s m i a wmask hi hq hr hp hpass
  have hbody := (searchBody_accept m (searchCmdByte i) (encode i) (quiet_left hq) hr hp).trans (searchTail_at hq hpass)
  rw [exec_search hi]
  refine ⟨fun hcrc => congrArg Host.Outcome.next ?_, fun hcrc => congrArg Host.Outcome.next ?_⟩
  · rw [op_bind_ok (checkCrc_ok hcrc _), op_modify] at hbody
    exact (operate_ok hbody).trans (finishOk_at_search ..)
  · rw [op_bind_error (checkCrc_bad hcrc _)] at hbody
    exact (operate_raised hbody).trans (raiseError_at ..)

/-- Settles O35: the pass stops at its first `(1,1)` pair. -/
theorem searchWithNobodyAnsweringFails : Obligations.SearchWithNobodyAnsweringFails := by
  intro s m k i hi hk hq hr hp hbefore hnobody
  have hcmd : s.quiet (initAnswers m + 16) := quiet_left (quiet_left hq)
  have hbody := (searchBody_accept m (searchCmdByte i) (encode i) hcmd hr hp).trans
    (searchTail_nobody s.conflict hk hq hbefore hnobody)
  rw [exec_search hi]
  exact congrArg Host.Outcome.next ((operate_raised hbody).trans (raiseError_at ..))

end Sys2Proof.Machine

/-! ## A pass, position by position (R186 to R190, R304) -/

namespace Sys2Proof.Machine

/-- What position `i` of a pass from mask `m` settles for good: bit `i` of the address and of the mask. -/
structure Settled (m : Word64) (rd : Reads) (a wmask : Word64) (i : Nat) : Prop where
  answered : ((rd i).1 && (rd i).2) = false
  addrBit : a.getLsbD i = searchChoice m (highestSet m) i (rd i).1 (rd i).2
  wmaskBit : wmask.getLsbD i = maskBit (highestSet m) i (rd i).1 (rd i).2 (m.getLsbD i)

/-- The pass from position `i` on, when the bits below `i` are settled already. -/
theorem walk_of_settled {m b v : Word64} {rd : Reads} (hset : ∀ j < 64, Settled m rd b v j) {n i : Nat}
    (hin : i + n = 64) {a wmask : Word64} (ha : ∀ j < i, a.getLsbD j = b.getLsbD j)
    (hw : ∀ j < 64, wmask.getLsbD j = if j < i then v.getLsbD j else m.getLsbD j) :
    walk m rd n i a wmask = some (b, v) := by
  induction n generalizing i a wmask with
  | zero =>
    obtain rfl : i = 64 := hin
    have hab : a = b := BitVec.eq_of_getLsbD_eq ha
    have hwv : wmask = v := BitVec.eq_of_getLsbD_eq fun j hj => by rw [hw j hj, if_pos hj]
    rw [walk, hab, hwv]
  | succ n ih =>
    have hi : i < 64 := by omega
    obtain ⟨hans, hbit, hmask⟩ := hset i hi
    rw [walk, hans, if_neg Bool.false_ne_true, ← hbit]
    refine ih (by omega) (fun j hj => ?_) fun j hj => ?_
    · rw [getLsbD_setBit a hi]
      split
      · next h => rw [h]
      · next h => exact ha j (by omega)
    · rw [getLsbD_searchMask _ hi]
      rcases Nat.lt_trichotomy j i with h | rfl | h
      · rw [if_neg (by omega), hw j hj, if_pos h, if_pos (by omega)]
      · rw [if_pos rfl, hw j hj, if_neg (by omega), if_pos (by omega), hmask]
      · rw [if_neg (by omega), hw j hj, if_neg (by omega), if_neg (by omega)]

theorem searchPass_of_settled {m b v : Word64} {rd : Reads} (hset : ∀ j < 64, Settled m rd b v j) :
    searchPass m rd = some (b, v) :=
  walk_of_settled hset (Nat.zero_add 64) (fun j hj => absurd hj (Nat.not_lt_zero j)) fun j _ => by
    rw [if_neg (Nat.not_lt_zero j)]

/-- R304: two reads of 0 from mask 0 give the address bit 0 and set the mask bit. -/
theorem settled_of_zero_reads {rd : Reads} {i : Nat} (hi : i < 64) (hrd : rd i = (false, false)) :
    Settled 0#64 rd 0#64 (BitVec.allOnes 64) i where
  answered := by rw [hrd]; rfl
  addrBit := by
    rw [hrd, highestSet_zero, searchChoice_pastTurn _ (.inl rfl)]
    exact BitVec.getLsbD_zero
  wmaskBit := by rw [BitVec.getLsbD_allOnes, hrd]; simp [hi, maskBit, belowLast]

/-- Settles O54: no answer of the slots is 1, so every position is a conflict above the (missing) turning point. -/
theorem stuckZeroLineFillsTheMask : Obligations.StuckZeroLineFillsTheMask := by
  intro s m hconflict hq hr hlow
  have hp : s.presenceAt m = false := hlow (m + 3) (by omega) (by simp only [initAnswers]; omega)
  have hrd : ∀ i, i < 64 → s.readsAt (initAnswers m + 16) i = (false, false) := fun i hi => by
    refine Prod.ext (hlow _ ?_ ?_) (hlow _ ?_ ?_) <;> simp only [initAnswers] <;> omega
  have hpass : searchPass s.conflict (s.readsAt (initAnswers m + 16)) = some (0#64, BitVec.allOnes 64) := by
    rw [hconflict]
    exact searchPass_of_settled fun i hi => settled_of_zero_reads hi (hrd i hi)
  obtain ⟨hok, -⟩ := searchPassDeliversItsAddress s m .searchRom _ _ (.inl rfl) hq hr hp hpass
  exact ⟨_, hok (crc8_replicate_zero 8), rfl, rfl, rfl, rfl, rfl, rfl⟩

end Sys2Proof.Machine

/-! ## A pass against a bus of slaves (R187, R189, R194)

The slaves that take part at a position are those that agree with the delivered address below it. So a bus answers as a
line with fixed reads does, and the address is a code of a slave that takes part to the end. -/

namespace Sys2Proof.Machine

theorem mem_takingPart {codes : List Word64} {a c : Word64} {i : Nat} :
    c ∈ takingPart codes a i ↔ c ∈ codes ∧ ∀ j < i, c.getLsbD j = a.getLsbD j := by
  simp [takingPart]

theorem takingPart_congr {a b : Word64} {i : Nat} (codes : List Word64) (h : ∀ j < i, a.getLsbD j = b.getLsbD j) :
    takingPart codes a i = takingPart codes b i := by
  refine List.filter_congr fun c _ => ?_
  rw [Bool.eq_iff_iff]
  simp +contextual [h]

@[simp] theorem takingPart_zero (codes : List Word64) (a : Word64) : takingPart codes a 0 = codes := by
  simp [takingPart]

theorem takingPart_succ (codes : List Word64) (a : Word64) (i : Nat) :
    takingPart codes a (i + 1) = (takingPart codes a i).filter fun c => c.getLsbD i == a.getLsbD i := by
  simp [takingPart, List.filter_filter, List.range_succ, Bool.and_comm]

/-- R189: a slave goes on when it agrees with the bit written back. -/
theorem takingPart_setBit (codes : List Word64) (a : Word64) {i : Nat} (hi : i < 64) (b : Bool) :
    takingPart codes (setBit a i b) (i + 1) = (takingPart codes a i).filter fun c => c.getLsbD i == b := by
  have hlow : ∀ j < i, (setBit a i b).getLsbD j = a.getLsbD j := fun j hj => by
    rw [getLsbD_setBit a hi, if_neg (by omega)]
  rw [takingPart_succ, getLsbD_setBit a hi, if_pos rfl, takingPart_congr codes hlow]

/-! ### The reads of a triplet -/

theorem busReads_fst_eq_false {active : List Word64} {i : Nat} :
    (busReads active i).1 = false ↔ ∃ c ∈ active, c.getLsbD i = false := by
  simp [busReads]

theorem busReads_snd_eq_false {active : List Word64} {i : Nat} :
    (busReads active i).2 = false ↔ ∃ c ∈ active, c.getLsbD i = true := by
  simp [busReads]

/-- Unless nobody answers, some slave has the bit chosen. -/
theorem exists_mem_of_answered (m : Word64) (last : Option Nat) {active : List Word64} {i : Nat}
    (h : ((busReads active i).1 && (busReads active i).2) = false) :
    ∃ c ∈ active, c.getLsbD i = searchChoice m last i (busReads active i).1 (busReads active i).2 := by
  cases h1 : (busReads active i).1 with
  | true =>
    have h2 : (busReads active i).2 = false := by simpa [h1] using h
    rw [searchChoice_of_agreement m last i (Bool.true_or _)]
    exact busReads_snd_eq_false.1 h2
  | false =>
    cases h2 : (busReads active i).2 with
    | true =>
      rw [searchChoice_of_agreement m last i (Bool.or_true _)]
      exact busReads_fst_eq_false.1 h1
    | false =>
      cases searchChoice m last i false false with
      | true => exact busReads_snd_eq_false.1 h2
      | false => exact busReads_fst_eq_false.1 h1

/-! ### The bus as a line with fixed reads -/

/-- What the bus reads in a pass that delivers `a`. -/
def busLine (codes : List Word64) (a : Word64) : Reads := fun i => busReads (takingPart codes a i) i

/-- `a` has at position `i` the bit that a pass from mask `m` chooses on the way to `a`. -/
def ChosenAt (codes : List Word64) (m a : Word64) (i : Nat) : Prop :=
  a.getLsbD i = searchChoice m (highestSet m) i (busLine codes a i).1 (busLine codes a i).2

/-- Along the chosen bits the bus search reads what the line with fixed reads gives. -/
theorem busWalk_eq_walk {codes : List Word64} {m b : Word64} (hb : ∀ j < 64, ChosenAt codes m b j) {n i : Nat}
    (hin : i + n = 64) (a wmask : Word64) :
    busWalk m n i (takingPart codes b i) a wmask = walk m (busLine codes b) n i a wmask := by
  induction n generalizing i a wmask with
  | zero => rfl
  | succ n ih =>
    have hbit := hb i (by omega)
    have hih := ih (i := i + 1) (by omega)
    rw [takingPart_succ] at hih
    simp only [ChosenAt, busLine] at hbit
    simp only [busWalk, walk, busLine, ← hbit, hih]

/-- The address of a pass belongs to a slave that takes part, and every further bit of it was chosen. -/
theorem busWalk_delivers {codes : List Word64} {m : Word64} {n i : Nat} (hin : i + n = 64) {a wmask : Word64}
    {r : Word64 × Word64} (hne : takingPart codes a i ≠ [])
    (h : busWalk m n i (takingPart codes a i) a wmask = some r) :
    r.1 ∈ takingPart codes a i ∧ ∀ j < 64, i ≤ j → ChosenAt codes m r.1 j := by
  induction n generalizing i a wmask with
  | zero =>
    obtain rfl : i = 64 := hin
    obtain ⟨c, hc⟩ := List.exists_mem_of_ne_nil _ hne
    obtain rfl : c = a := BitVec.eq_of_getLsbD_eq (mem_takingPart.1 hc).2
    obtain rfl : (c, wmask) = r := Option.some.inj h
    exact ⟨hc, fun j hj hj' => by omega⟩
  | succ n ih =>
    have hi : i < 64 := by omega
    rw [busWalk] at h
    split at h
    · cases h
    · next hans =>
      obtain ⟨c, hc, hci⟩ := exists_mem_of_answered m (highestSet m) (Bool.eq_false_of_not_eq_true hans)
      simp only [← takingPart_setBit codes a hi] at h
      obtain ⟨hmem, hrest⟩ := ih (by omega)
        (List.ne_nil_of_mem (by rw [takingPart_setBit codes a hi]; exact List.mem_filter.2 ⟨hc, beq_iff_eq.2 hci⟩)) h
      rw [takingPart_setBit codes a hi, List.mem_filter, beq_iff_eq] at hmem
      obtain ⟨hmem, hbit⟩ := hmem
      refine ⟨hmem, fun j hj hij => ?_⟩
      rcases Nat.eq_or_lt_of_le hij with rfl | hij
      · rw [ChosenAt, busLine, takingPart_congr codes (mem_takingPart.1 hmem).2]
        exact hbit
      · exact hrest j hj hij

/-- R189, R194: a pass delivers a slave, bit by bit as chosen. -/
theorem busPass_delivers {codes : List Word64} {m a wmask : Word64} (h : busPass codes m = some (a, wmask)) :
    a ∈ codes ∧ ∀ j < 64, ChosenAt codes m a j := by
  have hne : codes ≠ [] := by rintro rfl; cases h
  rw [busPass, ← takingPart_zero codes 0#64] at h
  obtain ⟨hmem, hchosen⟩ := busWalk_delivers (Nat.zero_add 64) (by rwa [takingPart_zero]) h
  exact ⟨(mem_takingPart.1 hmem).1, fun j hj => hchosen j hj (Nat.zero_le j)⟩

theorem busPass_eq_searchPass {codes : List Word64} {m b : Word64} (hb : ∀ j < 64, ChosenAt codes m b j) :
    busPass codes m = searchPass m (busLine codes b) := by
  have h := busWalk_eq_walk hb (Nat.zero_add 64) 0#64 m
  rwa [takingPart_zero] at h

/-- A pass looks at the reads of its own positions only. -/
theorem walk_congr {m : Word64} {rd rd' : Reads} {n i : Nat} (h : ∀ j, i ≤ j → j < i + n → rd j = rd' j)
    (a wmask : Word64) : walk m rd n i a wmask = walk m rd' n i a wmask := by
  induction n generalizing i a wmask with
  | zero => rfl
  | succ n ih =>
    have hi : rd i = rd' i := h i (Nat.le_refl i) (by omega)
    have hih := ih (i := i + 1) fun j hj hj' => h j (by omega) (by omega)
    simp only [walk, hi, hih]

/-- Settles O55: the line answers as the bus does, so the pass on the line is the pass on the bus. -/
theorem passOnABusDeliversASlave : Obligations.PassOnABusDeliversASlave := by
  intro s m codes a wmask hbus hcrc hq hr hp hrd
  obtain ⟨hmem, hchosen⟩ := busPass_delivers hbus
  have hpass : searchPass s.conflict (s.readsAt (initAnswers m + 16)) = some (a, wmask) := by
    rw [← hbus, busPass_eq_searchPass hchosen]
    exact walk_congr (fun j _ hj => hrd j (by omega)) _ _
  obtain ⟨hok, -⟩ := searchPassDeliversItsAddress s m .searchRom a wmask (.inl rfl) hq hr hp hpass
  exact ⟨_, hok hcrc, rfl, rfl, rfl, rfl, rfl, hmem⟩

end Sys2Proof.Machine

/-! ## The order of the codes (R196)

Codes are compared at the first bit, counted from bit 0, in which they differ. -/

namespace Sys2Proof.Machine

/-- The bit-reversed code. -/
abbrev searchRank (a : Word64) : Nat := a.reverse.toNat

/-- `a` and `b` agree below bit `i`, where `a` has 0 and `b` has 1. -/
structure BranchesAt (a b : Word64) (i : Nat) : Prop where
  below : ∀ j < i, a.getLsbD j = b.getLsbD j
  zero : a.getLsbD i = false
  one : b.getLsbD i = true

theorem BranchesAt.lt_width {a b : Word64} {i : Nat} (h : BranchesAt a b i) : i < 64 := BitVec.lt_of_getLsbD h.one

theorem BranchesAt.congr_left {a a' b : Word64} {i : Nat} (h : BranchesAt a b i)
    (haa' : ∀ j ≤ i, a.getLsbD j = a'.getLsbD j) : BranchesAt a' b i :=
  ⟨fun j hj => (haa' j hj.le).symm.trans (h.below j hj), (haa' i le_rfl).symm.trans h.zero, h.one⟩

theorem BranchesAt.congr_right {a b b' : Word64} {i : Nat} (h : BranchesAt a b i)
    (hbb' : ∀ j ≤ i, b.getLsbD j = b'.getLsbD j) : BranchesAt a b' i :=
  ⟨fun j hj => (h.below j hj).trans (hbb' j hj.le), h.zero, (hbb' i le_rfl).symm.trans h.one⟩

theorem testBit_searchRank (a : Word64) {i : Nat} (hi : i < 64) : (searchRank a).testBit (63 - i) = a.getLsbD i := by
  rw [searchRank, BitVec.testBit_toNat, BitVec.getLsbD_reverse, BitVec.getLsbD_eq_getMsbD]
  simp [hi]

theorem BranchesAt.searchRank_lt {a b : Word64} {i : Nat} (h : BranchesAt a b i) : searchRank a < searchRank b := by
  have hi := h.lt_width
  refine Nat.lt_of_testBit (63 - i) ?_ ?_ fun j hj => ?_
  · rw [testBit_searchRank a hi, h.zero]
  · rw [testBit_searchRank b hi, h.one]
  · by_cases hj64 : j < 64
    · obtain ⟨k, hk, rfl⟩ : ∃ k, k < 64 ∧ j = 63 - k := ⟨63 - j, by omega, by omega⟩
      rw [testBit_searchRank a hk, testBit_searchRank b hk, h.below k (by omega)]
    · simp only [BitVec.testBit_toNat]
      rw [BitVec.getLsbD_of_ge _ j (by omega), BitVec.getLsbD_of_ge _ j (by omega)]

theorem searchRank_injective : Function.Injective searchRank := by
  intro a b h
  rw [← BitVec.reverse_reverse_eq (x := a), BitVec.eq_of_toNat_eq h, BitVec.reverse_reverse_eq]

/-- Two codes that differ branch at the first bit in which they do. -/
theorem exists_branchesAt_of_ne {a b : Word64} (h : a ≠ b) : ∃ i, BranchesAt a b i ∨ BranchesAt b a i := by
  have hex : ∃ i, a.getLsbD i ≠ b.getLsbD i := by
    by_contra hall
    push Not at hall
    exact h (BitVec.eq_of_getLsbD_eq fun i _ => hall i)
  have hbelow : ∀ j < Nat.find hex, a.getLsbD j = b.getLsbD j := fun j hj => not_not.1 (Nat.find_min hex hj)
  have hne := Nat.find_spec hex
  refine ⟨Nat.find hex, ?_⟩
  cases ha : a.getLsbD (Nat.find hex) with
  | false => exact .inl ⟨hbelow, ha, by simpa [ha] using hne⟩
  | true => exact .inr ⟨fun j hj => (hbelow j hj).symm, by simpa [ha] using hne, ha⟩

/-- R196: the order of the bit-reversed codes is the order of the branches of the search. -/
theorem searchRank_lt_iff {a b : Word64} : searchRank a < searchRank b ↔ ∃ i, BranchesAt a b i := by
  refine ⟨fun h => ?_, fun ⟨i, hi⟩ => hi.searchRank_lt⟩
  obtain ⟨i, hi | hi⟩ := exists_branchesAt_of_ne (a := a) (b := b) (by rintro rfl; exact Nat.lt_irrefl _ h)
  · exact ⟨i, hi⟩
  · exact absurd hi.searchRank_lt (Nat.lt_asymm h)

/-- Codes listed in the order of their bit-reversed values, each once. -/
abbrev Ascending (l : List Word64) : Prop := l.Pairwise fun a b => searchRank a < searchRank b

/-- The codes in the order of their bit-reversed values. -/
def sortedCodes (codes : List Word64) : List Word64 := codes.mergeSort fun a b => decide (searchRank a ≤ searchRank b)

theorem sortedCodes_perm (codes : List Word64) : (sortedCodes codes).Perm codes := List.mergeSort_perm _ _

theorem ascending_sortedCodes {codes : List Word64} (h : codes.Nodup) : Ascending (sortedCodes codes) := by
  have hle : (sortedCodes codes).Pairwise fun a b => decide (searchRank a ≤ searchRank b) = true :=
    List.pairwise_mergeSort (fun a b c hab hbc => by simp only [decide_eq_true_eq] at *; omega)
      (fun a b => by simp only [Bool.or_eq_true, decide_eq_true_eq]; omega) codes
  have hne : (sortedCodes codes).Nodup := (sortedCodes_perm codes).nodup_iff.2 h
  refine (hle.and hne).imp fun ⟨hab, hne⟩ => ?_
  exact Nat.lt_of_le_of_ne (of_decide_eq_true hab) (searchRank_injective.ne hne)

end Sys2Proof.Machine

/-! ## The search visits the codes in order (R188, R194 to R196)

A pass that delivers `a` leaves a mask with the forks at which `a` took 0 and some code goes on with 1. The next pass
turns at the last of them, and that is where the next code in order branches off from `a`. -/

namespace Sys2Proof.Machine

/-- The mask of the positions at which a code branches off above `a`. -/
def openForks (codes : List Word64) (a : Word64) : Word64 :=
  BitVec.ofFnLE fun i : Fin 64 => !a.getLsbD i && (takingPart codes a i).any fun c => c.getLsbD i

theorem getLsbD_openForks {codes : List Word64} {a : Word64} {i : Nat} :
    (openForks codes a).getLsbD i = true ↔ ∃ c ∈ codes, BranchesAt a c i := by
  constructor
  · intro h
    have hi := BitVec.lt_of_getLsbD h
    simp only [openForks, BitVec.getLsbD_ofFnLE, hi, dite_true, Bool.and_eq_true, Bool.not_eq_true', List.any_eq_true,
      mem_takingPart] at h
    obtain ⟨hzero, c, ⟨hc, hbelow⟩, hone⟩ := h
    exact ⟨c, hc, fun j hj => (hbelow j hj).symm, hzero, hone⟩
  · rintro ⟨c, hc, h⟩
    simp only [openForks, BitVec.getLsbD_ofFnLE, h.lt_width, dite_true, Bool.and_eq_true, Bool.not_eq_true',
      List.any_eq_true, mem_takingPart]
    exact ⟨h.zero, c, ⟨hc, fun j hj => (h.below j hj).symm⟩, h.one⟩

/-- R195: the mask is 0 exactly after the last code. -/
theorem openForks_eq_zero_iff {codes : List Word64} {a : Word64} :
    openForks codes a = 0#64 ↔ ∀ c ∈ codes, ¬ searchRank a < searchRank c := by
  constructor
  · intro h c hc hlt
    obtain ⟨i, hi⟩ := searchRank_lt_iff.1 hlt
    have hbit := getLsbD_openForks.2 ⟨c, hc, hi⟩
    simp [h] at hbit
  · intro h
    refine BitVec.eq_of_getLsbD_eq fun i _ => ?_
    rw [BitVec.getLsbD_zero, Bool.eq_false_iff]
    intro hbit
    obtain ⟨c, hc, hi⟩ := getLsbD_openForks.1 hbit
    exact h c hc hi.searchRank_lt

theorem getLsbD_openForks_of_one {codes : List Word64} {b : Word64} {i : Nat} (h : b.getLsbD i = true) :
    (openForks codes b).getLsbD i = false := by
  rw [Bool.eq_false_iff]
  intro hbit
  obtain ⟨c, -, hc⟩ := getLsbD_openForks.1 hbit
  simp [hc.zero] at h

/-! ### What the bus reads on the way to a code -/

/-- Where the code has 0, the true bit reads 0, and the complement 0 exactly at a fork of `openForks`. -/
theorem busLine_of_zero {codes : List Word64} {b : Word64} (hb : b ∈ codes) {i : Nat} (h : b.getLsbD i = false) :
    busLine codes b i = (false, !(openForks codes b).getLsbD i) := by
  refine Prod.ext (busReads_fst_eq_false.2 ⟨b, mem_takingPart.2 ⟨hb, fun _ _ => rfl⟩, h⟩) ?_
  rw [Bool.eq_iff_iff, ← not_iff_not]
  simp only [Bool.not_eq_true, Bool.not_eq_false', getLsbD_openForks]
  rw [busLine, busReads_snd_eq_false]
  simp only [mem_takingPart]
  exact ⟨fun ⟨c, ⟨hc, hbelow⟩, hone⟩ => ⟨c, hc, fun j hj => (hbelow j hj).symm, h, hone⟩,
    fun ⟨c, hc, hbr⟩ => ⟨c, ⟨hc, fun j hj => (hbr.below j hj).symm⟩, hbr.one⟩⟩

/-- Where the code has 1, the complement reads 0. -/
theorem busLine_snd_of_one {codes : List Word64} {b : Word64} (hb : b ∈ codes) {i : Nat} (h : b.getLsbD i = true) :
    (busLine codes b i).2 = false :=
  busReads_snd_eq_false.2 ⟨b, mem_takingPart.2 ⟨hb, fun _ _ => rfl⟩, h⟩

/-- Where the code has 1, the true bit reads 0 exactly if a code branches off with 0. -/
theorem busLine_fst_of_one {codes : List Word64} {b : Word64} {i : Nat} (h : b.getLsbD i = true) :
    (busLine codes b i).1 = false ↔ ∃ c ∈ codes, BranchesAt c b i := by
  rw [busLine, busReads_fst_eq_false]
  simp only [mem_takingPart]
  exact ⟨fun ⟨c, ⟨hc, hbelow⟩, hzero⟩ => ⟨c, hc, hbelow, hzero, h⟩,
    fun ⟨c, hc, hbr⟩ => ⟨c, ⟨hc, hbr.below⟩, hbr.zero⟩⟩

/-! ### The positions of a pass that delivers a code -/

section Positions
variable {codes : List Word64} {m b : Word64} {i : Nat}

theorem PastTurn.getLsbD_eq_false (h : PastTurn (highestSet m) i) : m.getLsbD i = false := by
  rcases h with h | ⟨l, h, hl⟩
  · simp [(highestSet_eq_none_iff m).1 h]
  · exact ((highestSet_eq_some_iff m l).1 h).2 i hl

/-- Above the turning point a pass keeps to 0 while it can, and marks the forks it meets. -/
theorem settled_pastTurn (hb : b ∈ codes) (hpast : PastTurn (highestSet m) i)
    (hfirst : ∀ c ∈ codes, ¬ BranchesAt c b i) :
    Settled m (busLine codes b) b (openForks codes b) i := by
  have hm := hpast.getLsbD_eq_false
  cases hbi : b.getLsbD i with
  | true =>
    have hline : busLine codes b i = (true, false) := by
      refine Prod.ext ?_ (busLine_snd_of_one hb hbi)
      rw [← Bool.not_eq_false, busLine_fst_of_one hbi]
      exact fun ⟨c, hc, hbr⟩ => hfirst c hc hbr
    refine ⟨by rw [hline]; rfl, by rw [hline, hbi]; rfl, ?_⟩
    rw [hline, hm, getLsbD_openForks_of_one hbi]
    simp [maskBit]
  | false =>
    have hline := busLine_of_zero hb hbi
    refine ⟨by rw [hline]; rfl, ?_, ?_⟩
    · rw [hline, hbi]
      cases (openForks codes b).getLsbD i
      · rfl
      · exact (searchChoice_pastTurn m hpast).symm
    · rw [hline, hm]
      simp [maskBit, hpast.not_belowLast, hpast.ne_some]

/-- At the turning point a pass takes 1, and the fork is used up. -/
theorem settled_at (hb : b ∈ codes) (hturn : highestSet m = some i) (hfork : ∃ c ∈ codes, BranchesAt c b i) :
    Settled m (busLine codes b) b (openForks codes b) i := by
  have ⟨_, _, hbr⟩ := hfork
  have hline : busLine codes b i = (false, false) :=
    Prod.ext ((busLine_fst_of_one hbr.one).2 hfork) (busLine_snd_of_one hb hbr.one)
  refine ⟨by rw [hline]; rfl, ?_, ?_⟩
  · rw [hline, hturn, hbr.one]
    exact (searchChoice_at m i).symm
  · rw [hturn, getLsbD_openForks_of_one hbr.one]
    simp [maskBit]

/-- Below the turning point the mask says what was chosen, and stays. -/
theorem settled_below (hb : b ∈ codes) {l : Nat} (hturn : highestSet m = some l) (hi : i < l)
    (hm : m.getLsbD i = (openForks codes b).getLsbD i) : Settled m (busLine codes b) b (openForks codes b) i := by
  have hchoice := searchChoice_below m hi
  have hmask : ∀ r1 r2, (openForks codes b).getLsbD i = maskBit (highestSet m) i r1 r2 (m.getLsbD i) := fun r1 r2 => by
    have hne : l ≠ i := by omega
    simp [maskBit, hturn, belowLast, hi, hne, hm]
  cases hbi : b.getLsbD i with
  | true =>
    have hcomplement := busLine_snd_of_one hb hbi
    refine ⟨by rw [hcomplement, Bool.and_false], ?_, hmask _ _⟩
    rw [hcomplement, hturn, hbi]
    cases (busLine codes b i).1
    · rw [hchoice, hm, getLsbD_openForks_of_one hbi]; rfl
    · rfl
  | false =>
    have hline := busLine_of_zero hb hbi
    refine ⟨by rw [hline]; rfl, ?_, hmask _ _⟩
    rw [hline, hturn, hbi]
    cases hfork : (openForks codes b).getLsbD i
    · rfl
    · rw [Bool.not_true, hchoice, hm, hfork]; rfl

end Positions

/-! ### One pass -/

/-- The bus answers along `b` as the line with fixed reads, so `b` is what the pass delivers. -/
theorem busPass_of_settled {codes : List Word64} {m b v : Word64} (h : ∀ i < 64, Settled m (busLine codes b) b v i) :
    busPass codes m = some (b, v) := by
  rw [busPass_eq_searchPass fun i hi => (h i hi).addrBit, searchPass_of_settled h]

/-- R195: from mask 0 a pass delivers the first code. -/
theorem busPass_first {codes : List Word64} {b : Word64} (hb : b ∈ codes)
    (hfirst : ∀ c ∈ codes, ¬ searchRank c < searchRank b) : busPass codes 0#64 = some (b, openForks codes b) :=
  busPass_of_settled fun _ _ => settled_pastTurn hb (.inl highestSet_zero) fun c hc hbr => hfirst c hc hbr.searchRank_lt

/-- R195: from the mask of `a` a pass delivers the code next to `a`. -/
theorem busPass_next {codes : List Word64} {a b : Word64} (ha : a ∈ codes) (hb : b ∈ codes)
    (hab : searchRank a < searchRank b)
    (hnext : ∀ c ∈ codes, searchRank a < searchRank c → ¬ searchRank c < searchRank b) :
    busPass codes (openForks codes a) = some (b, openForks codes b) := by
  obtain ⟨l, hl⟩ := searchRank_lt_iff.1 hab
  have hturn : highestSet (openForks codes a) = some l := by
    refine (highestSet_eq_some_iff _ l).2 ⟨getLsbD_openForks.2 ⟨b, hb, hl⟩, fun j hj => ?_⟩
    rw [Bool.eq_false_iff]
    intro hbit
    obtain ⟨c, hc, hac⟩ := getLsbD_openForks.1 hbit
    have hcb : BranchesAt c b l := hl.congr_left fun k hk => hac.below k (by omega)
    exact hnext c hc hac.searchRank_lt hcb.searchRank_lt
  refine busPass_of_settled fun i _ => ?_
  rcases Nat.lt_trichotomy i l with hi | rfl | hi
  · refine settled_below hb hturn hi ?_
    have hagree : ∀ j ≤ i, a.getLsbD j = b.getLsbD j := fun j hj => hl.below j (by omega)
    have hbranch : ∀ c, BranchesAt a c i ↔ BranchesAt b c i := fun c =>
      ⟨fun h => h.congr_left hagree, fun h => h.congr_left fun j hj => (hagree j hj).symm⟩
    rw [Bool.eq_iff_iff, getLsbD_openForks, getLsbD_openForks]
    simp only [hbranch]
  · exact settled_at hb hturn ⟨a, ha, hl⟩
  · refine settled_pastTurn hb (.inr ⟨l, hturn, hi⟩) fun c hc hcb => ?_
    have hac : BranchesAt a c l := hl.congr_right fun j hj => (hcb.below j (by omega)).symm
    exact hnext c hc hac.searchRank_lt hcb.searchRank_lt

/-! ### All passes -/

theorem busPasses_succ {codes l : List Word64} {m m' m'' a : Word64} {k : Nat} (h : busPass codes m = some (a, m'))
    (hrest : busPasses codes k m' = some (l, m'')) : busPasses codes (k + 1) m = some (a :: l, m'') := by
  rw [busPasses, h]
  simp only [hrest]

theorem mem_tail_iff_of_ascending {b c : Word64} {l : List Word64}
    (h : Ascending (b :: l)) : c ∈ l ↔ c ∈ b :: l ∧ searchRank b < searchRank c := by
  constructor
  · exact fun hc => ⟨List.mem_cons_of_mem b hc, List.rel_of_pairwise_cons h hc⟩
  · rintro ⟨hc, hbc⟩
    refine (List.mem_cons.1 hc).resolve_left ?_
    rintro rfl
    exact Nat.lt_irrefl _ hbc

theorem not_lt_head_of_ascending {b c : Word64} {l : List Word64}
    (h : Ascending (b :: l)) (hc : c ∈ b :: l) : ¬ searchRank c < searchRank b := by
  rcases List.mem_cons.1 hc with rfl | hc
  · exact Nat.lt_irrefl _
  · exact Nat.lt_asymm (List.rel_of_pairwise_cons h hc)

/-- R195, R196: the passes after `a` deliver the codes after `a` in order; the mask is 0 when none is left. -/
theorem busPasses_after {codes : List Word64} {a : Word64} (ha : a ∈ codes) {l : List Word64}
    (hl : ∀ c, c ∈ l ↔ c ∈ codes ∧ searchRank a < searchRank c)
    (hsorted : Ascending l) {k : Nat} (hk : k ≤ l.length) :
    ∃ m', busPasses codes k (openForks codes a) = some (l.take k, m') ∧ (m' = 0#64 ↔ k = l.length) := by
  induction k generalizing a l with
  | zero =>
    refine ⟨openForks codes a, rfl, ?_⟩
    rw [openForks_eq_zero_iff, eq_comm, List.length_eq_zero_iff, List.eq_nil_iff_forall_not_mem]
    simp only [hl, not_and]
  | succ k ih =>
    match l with
    | [] => simp at hk
    | b :: l =>
      obtain ⟨hb, hab⟩ := (hl b).1 List.mem_cons_self
      have hnext : ∀ c ∈ codes, searchRank a < searchRank c → ¬ searchRank c < searchRank b := fun c hc hac =>
        not_lt_head_of_ascending hsorted ((hl c).2 ⟨hc, hac⟩)
      have htail : ∀ c, c ∈ l ↔ c ∈ codes ∧ searchRank b < searchRank c := fun c => by
        rw [mem_tail_iff_of_ascending hsorted, hl]
        exact ⟨fun ⟨⟨hc, _⟩, hbc⟩ => ⟨hc, hbc⟩, fun ⟨hc, hbc⟩ => ⟨⟨hc, hab.trans hbc⟩, hbc⟩⟩
      obtain ⟨m', hpasses, hzero⟩ := ih hb htail hsorted.of_cons (Nat.le_of_succ_le_succ hk)
      exact ⟨m', busPasses_succ (busPass_next ha hb hab hnext) hpasses, by rw [hzero, List.length_cons, Nat.succ_inj]⟩

/-- R195, R196: the passes from mask 0 deliver the codes in order; the mask is 0 when none is left. -/
theorem busPasses_sorted {codes l : List Word64} (hl : l.Perm codes)
    (hsorted : Ascending l) {k : Nat} (hpos : 0 < k) (hk : k ≤ l.length) :
    ∃ m', busPasses codes k 0#64 = some (l.take k, m') ∧ (m' = 0#64 ↔ k = l.length) := by
  obtain ⟨k, rfl⟩ := Nat.exists_eq_succ_of_ne_zero hpos.ne'
  match l with
  | [] => simp at hk
  | b :: l =>
    have hb : b ∈ codes := hl.mem_iff.1 List.mem_cons_self
    have hfirst : ∀ c ∈ codes, ¬ searchRank c < searchRank b := fun c hc =>
      not_lt_head_of_ascending hsorted (hl.mem_iff.2 hc)
    have htail : ∀ c, c ∈ l ↔ c ∈ codes ∧ searchRank b < searchRank c := fun c => by
      rw [mem_tail_iff_of_ascending hsorted, hl.mem_iff]
    obtain ⟨m', hpasses, hzero⟩ := busPasses_after hb htail hsorted.of_cons (Nat.le_of_succ_le_succ hk)
    exact ⟨m', busPasses_succ (busPass_first hb hfirst) hpasses, by rw [hzero, List.length_cons, Nat.succ_inj]⟩

/-- Settles O56: the passes follow the sorted list of the codes. -/
theorem enumerationFindsEverySlaveOnce : Obligations.EnumerationFindsEverySlaveOnce := by
  intro codes hne hnodup
  have hperm := sortedCodes_perm codes
  have hsorted := ascending_sortedCodes hnodup
  have hpasses := @busPasses_sorted codes _ hperm hsorted
  have hlen : (sortedCodes codes).length = codes.length := hperm.length_eq
  rw [hlen] at hpasses
  refine ⟨sortedCodes codes, ?_, hperm, hsorted, fun k hpos hk => ?_⟩
  · obtain ⟨m', hall, hzero⟩ := hpasses (List.length_pos_of_ne_nil hne) (Nat.le_refl _)
    rw [hall, hzero.2 rfl, List.take_of_length_le hlen.le]
  · obtain ⟨m', hsome, hzero⟩ := hpasses hpos hk.le
    exact ⟨_, m', hsome, fun h => hk.ne (hzero.1 h)⟩

end Sys2Proof.Machine

/-! ## The function commands on a line that answers (R210 to R228) -/

namespace Sys2Proof.Machine

/-! ### The frame (R210) -/

/-- The state inside a function command after its addressing step, with `n` answers and the events `tr` behind it. -/
def State.framed (s : State) (w : Word) (am : AddrMode) (n : Nat) (tr : List PinEvent) : State :=
  s.at_ w n tr (addrSeq am .decode) (addrLatch am { s.hid with presence := none, tmr := 0 })

/-- R210: what is left after the checks, the addressing step and the command byte is the body. -/
theorem functionFrame_accept {am : AddrMode} {m : Nat} {check body : Op Unit} {c : Byte} {s : State} {w : Word}
    (hcheck : check (s.accept w) = .ok () (s.accept w)) (ha : s.addressable am m)
    (hq : s.quiet (addrAnswers am m + 16)) :
    functionFrame am check c body (s.accept w)
      = body (s.framed w am (addrAnswers am m + 16) (addrTrace am s.addr ++ writeByteTrace c)) :=
  functionFrame_at am m hcheck ha hq

section Framed

variable {s : State} {w : Word} {am : AddrMode} {n : Nat} {tr : List PinEvent}

/-! ### The bodies -/

theorem delay_framed (t : Nat) (hq : s.quiet n) :
    delay t (s.framed w am n tr) = .ok () (s.framed w am n (tr ++ [.delay t])) := by
  rw [State.framed, delay_quiet (n := 0) t (quiet_at hq)]
  simp [State.framed, State.at_, State.emit]

theorem readPowerTail_framed (hq : s.quiet (n + 3)) :
    readPowerTail (s.framed w am n tr) = .ok ()
      ((s.framed w am (n + 3) (tr ++ readSlotTrace Config.profile (s.readAt n))).setBitFlag (s.readAt n)) := by
  rw [readPowerTail, State.framed, op_bind_ok (readBit_at hq), op_modify, State.framed]

/-- R224: the nine bytes read; what is left is their validation and the commit. -/
theorem readSpTail_framed {b : Vector Byte 9} (hq : s.quiet (n + 216)) (hbytes : s.bytesAt n 9 = b.toList) :
    readSpTail (s.framed w am n tr)
      = (checkCrc b.toList >>= fun _ => validateConfig b[4] >>= fun idx => modify (State.commitScratchpad b.toList idx))
          (s.framed w am (n + 216) (tr ++ readBytesTrace b.toList)) := by
  have hcfg : b.toList.getD 4 0#8 = b[4] := by simp [List.getD_eq_getElem?_getD]
  rw [readSpTail, State.framed, op_bind_ok (busRead_at 9 hq), hbytes, hcfg, State.framed]

theorem writeSpTail_framed (hq : s.quiet (n + 48)) :
    writeSpTail (s.framed w am n tr) = .ok ()
      (s.framed w am (n + 48) (tr ++ writeBytesTrace [s.buf[2], s.buf[3], s.buf[4]])) := by
  have hbuf : ∀ k, (hk : k < 9) → (s.framed w am n tr).bufByte k = s.buf[k] := fun k hk => bufByte_eq_getElem s k hk
  rw [writeSpTail, op_bind_ok (op_get _), hbuf 2 (by decide), hbuf 3 (by decide), hbuf 4 (by decide)]
  exact busWrite_at [s.buf[2], s.buf[3], s.buf[4]] hq

theorem recallPolls_eq : Config.recallPolls = 143 := by decide

theorem storeBytes_toList (buf b : Vector Byte 9) : storeBytes buf 0 b.toList = b := by
  ext i
  simp [storeBytes]

/-! ### The ends, with `PRESENCE` by address mode (R210, R264) -/

variable {m : Nat} {check body : Op Unit} {c : Byte} {t : State}

theorem functionFrame_endsOk (hcheck : check (s.accept w) = .ok () (s.accept w)) (ha : s.addressable am m)
    (hq : s.quiet (addrAnswers am m + 16))
    (hbody : body (s.framed w am (addrAnswers am m + 16) (addrTrace am s.addr ++ writeByteTrace c)) = .ok () t) :
    operation w (functionFrame am check c body) s = .next t.finishOk :=
  congrArg Host.Outcome.next (operate_ok ((functionFrame_accept hcheck ha hq).trans hbody))

theorem functionFrame_endsRaised {e : OpError} (hcheck : check (s.accept w) = .ok () (s.accept w))
    (ha : s.addressable am m) (hq : s.quiet (addrAnswers am m + 16))
    (hbody : body (s.framed w am (addrAnswers am m + 16) (addrTrace am s.addr ++ writeByteTrace c))
      = .error (.raised e) (s.framed w am n tr)) :
    operation w (functionFrame am check c body) s
      = .next (s.endedError w n tr (if am = .noAddr then none else some true) e) := by
  have hend : (s.framed w am n tr).raiseError e
      = s.endedError w n tr (if am = .noAddr then none else some true) e := by cases am <;> rfl
  rw [← hend]
  exact congrArg Host.Outcome.next (operate_raised ((functionFrame_accept hcheck ha hq).trans hbody))

theorem finishOk_framed :
    (s.framed w am n tr).finishOk
      = s.endedOk w n tr fun u => { u with presence := addrPresence am s.presence } := by cases am <;> rfl

theorem finishOk_framed_bit (b : Bool) :
    ((s.framed w am n tr).setBitFlag b).finishOk
      = s.endedOk w n tr fun u => { u with presence := addrPresence am s.presence, bit := b } := by cases am <;> rfl

theorem finishOk_framed_scratchpad (b : Vector Byte 9) (idx : BitVec 2) :
    ((s.framed w am n tr).commitScratchpad b.toList idx).finishOk
      = s.endedOk w n tr fun u => { u with presence := addrPresence am s.presence, buf := b, res := idx } := by
  unfold State.commitScratchpad
  rw [storeBytes_toList]
  cases am <;> rfl

end Framed

/-! ### The operations -/

/-- Settles O36: past the command byte `CONVERT_T` does nothing and `COPY_SP` waits. -/
theorem convertAndCopySendTheirByte : Obligations.ConvertAndCopySendTheirByte := by
  intro s m am ha hq
  rw [← finishOk_framed, ← finishOk_framed]
  exact ⟨functionFrame_endsOk rfl ha hq rfl, functionFrame_endsOk rfl ha hq (delay_framed _ hq)⟩

/-- Settles O37: past the command byte there is one read slot, whose level goes into `BIT`. -/
theorem readPowerSamplesOneSlot : Obligations.ReadPowerSamplesOneSlot := by
  intro s m am ha hq
  rw [← finishOk_framed_bit]
  exact functionFrame_endsOk rfl ha (quiet_left hq) (readPowerTail_framed hq)

/-- Settles O38: past the command byte the polls go on to the first that reads 1. -/
theorem recallEndsAtTheFirstReadyPoll : Obligations.RecallEndsAtTheFirstReadyPoll := by
  intro s m p am ha hp hq hbusy hready
  rw [← finishOk_framed_bit]
  exact functionFrame_endsOk rfl ha (quiet_left hq) (pollFrom_ready p (recallPolls_eq ▸ hp) hq hbusy hready)

/-- Settles O39: past the command byte all the polls read 0. -/
theorem recallTimesOutAfter143Polls : Obligations.RecallTimesOutAfter143Polls := by
  intro s m am ha hq hbusy
  rw [exec, execRecallE2, recallE2Body, recallPolls_eq]
  exact functionFrame_endsRaised rfl ha (quiet_left hq) (pollFrom_timeout 143 hq hbusy)

/-- Settles O40: the checks of the nine bytes in the order of R224, the CRC before the configuration byte. -/
theorem readSpValidatesTheScratchpad : Obligations.ReadSpValidatesTheScratchpad := by
  intro s m am b ha hq hbytes
  have hframe : s.quiet (addrAnswers am m + 16) := quiet_left hq
  refine ⟨fun idx hcrc hcfg => ?_, fun hcrc => functionFrame_endsRaised rfl ha hframe ?_,
    fun hcrc hcfg => functionFrame_endsRaised rfl ha hframe ?_⟩
  · rw [← finishOk_framed_scratchpad]
    refine functionFrame_endsOk rfl ha hframe ?_
    rw [readSpTail_framed hq hbytes, op_bind_ok (checkCrc_ok hcrc _), hcfg, op_bind_ok (validateConfig_ok idx _),
      op_modify]
  · rw [readSpTail_framed hq hbytes, op_bind_error (checkCrc_bad hcrc _)]
  · rw [readSpTail_framed hq hbytes, op_bind_ok (checkCrc_ok hcrc _), op_bind_error (validateConfig_bad hcfg _)]

/-- Settles O41: `BUF[4]` passes its check, and past the command byte the three bytes are sent. -/
theorem writeSpSendsThreeBytes : Obligations.WriteSpSendsThreeBytes := by
  intro s m am idx ha hcfg hq
  rw [← finishOk_framed]
  exact functionFrame_endsOk (bufConfigCheck_ok ⟨idx, hcfg⟩) ha (quiet_left hq) (writeSpTail_framed hq)

end Sys2Proof.Machine

/-! ## An operation run again from a state alike (R93, R210)

A procedure reads the line, `ADDR` and `BUF`; where the sequencer stands, the command word and what the trace shows so
far do not matter to it. The free values do, so what is said holds as long as no look at the line takes one. -/

namespace Sys2Proof.Machine

/-! ### States alike -/

/-- Inside an operation that no host event is going to meet. -/
structure Live (s : State) : Prop where
  undone      : s.done = false
  undisturbed : ∀ x ∈ s.inputs, x.isDuring = false

/-- `s'` is to the host and to the line what `s` is, but that the events `tr` (newest first) came before its own. -/
structure Alike (tr : List PinEvent) (s s' : State) : Prop where
  live     : Live s
  results  : sameResults s s'
  presence : s'.hid.presence.getD s'.presence = s.hid.presence.getD s.presence
  trace    : s'.trace = s.trace ++ tr
  inputs   : s'.inputs = s.inputs

theorem Live.alike {s : State} (h : Live s) (tr : List PinEvent) : Alike tr s { s with trace := s.trace ++ tr } :=
  ⟨h, ⟨rfl, rfl, rfl, rfl, rfl, rfl, rfl, rfl⟩, rfl, rfl, rfl⟩

theorem Live.quiet {s : State} (h : Live s) : s.quiet 0 :=
  ⟨Nat.zero_le _, by simp, fun x hx => h.undisturbed x (List.mem_of_getElem? hx)⟩

theorem sameResults.addr_buf {s t : State} (h : sameResults s t) : t.addr = s.addr ∧ t.buf = s.buf := by
  obtain ⟨haddr, -, -, -, hbuf, -⟩ := h
  exact ⟨haddr, hbuf⟩

section Alike

variable {tr : List PinEvent} {s s' : State} (h : Alike tr s s')
include h

theorem Alike.driven (d d' : Bool) (e : PinEvent) :
    Alike tr ({ s with owDriveLow := d }.emit e) ({ s' with owDriveLow := d' }.emit e) :=
  ⟨⟨h.live.undone, h.live.undisturbed⟩, h.results, h.presence, congrArg (e :: ·) h.trace, h.inputs⟩

theorem Alike.emit (e : PinEvent) : Alike tr (s.emit e) (s'.emit e) := h.driven s.owDriveLow s'.owDriveLow e

/-- The next input taken, the sequencer moved on. -/
theorem Alike.next {x : Input} {rest : List Input} (hi : s.inputs = x :: rest) (q q' : Seq) :
    Alike tr { s with inputs := rest, seq := q } { s' with inputs := rest, seq := q' } :=
  ⟨⟨h.live.undone, fun y hy => h.live.undisturbed y (hi ▸ List.mem_cons_of_mem x hy)⟩, h.results, h.presence, h.trace,
    rfl⟩

theorem Alike.at_seq (q : Seq) : Alike tr { s with seq := q } { s' with seq := q } :=
  ⟨⟨h.live.undone, h.live.undisturbed⟩, h.results, h.presence, h.trace, h.inputs⟩

theorem Alike.latch (p : Bool) :
    Alike tr { s with hid := { s.hid with presence := some p } } { s' with hid := { s'.hid with presence := some p } } :=
  ⟨⟨h.live.undone, h.live.undisturbed⟩, h.results, rfl, h.trace, h.inputs⟩

theorem Alike.setBitFlag (b : Bool) : Alike tr (s.setBitFlag b) (s'.setBitFlag b) := by
  obtain ⟨haddr, hconflict, hdata, hcrc, hbuf, -, hlast, hres⟩ := h.results
  exact ⟨⟨h.live.undone, h.live.undisturbed⟩, ⟨haddr, hconflict, hdata, hcrc, hbuf, rfl, hlast, hres⟩, h.presence,
    h.trace, h.inputs⟩

theorem Alike.commitScratchpad (r : List Byte) (idx : BitVec 2) :
    Alike tr (s.commitScratchpad r idx) (s'.commitScratchpad r idx) := by
  obtain ⟨haddr, hconflict, hdata, hcrc, hbuf, hbit, hlast, -⟩ := h.results
  exact ⟨⟨h.live.undone, h.live.undisturbed⟩,
    ⟨haddr, hconflict, hdata, hcrc, congrArg (storeBytes · 0 r) hbuf, hbit, hlast, rfl⟩, h.presence, h.trace, h.inputs⟩

/-- A look sees the same in both, or takes a free value. -/
theorem Alike.look :
    (s'.look.1 = s.look.1 ∧ s.look.2.freeIx = s.freeIx ∧ Alike tr s.look.2 s'.look.2)
      ∨ (s.freeIx < s.look.2.freeIx ∧ Live s.look.2) := by
  have hlive := h.live
  match hi : s.inputs with
  | .pins p :: rest =>
    have hi' : s'.inputs = .pins p :: rest := h.inputs.trans hi
    simp only [State.look, hi, hi']
    exact .inl ⟨trivial, trivial, h.next hi s.seq s'.seq⟩
  | [] | .host _ :: _ | .during _ :: _ =>
    simp only [State.look, hi]
    exact .inr ⟨Nat.lt_succ_self _, hlive.undone, hi ▸ hlive.undisturbed⟩

end Alike

/-! ### Runs alike -/

/-- `r'` ends as `r` does, in a state alike, unless the run to `r` took a free value: then its index is past `n`. -/
inductive Follow {α : Type} (tr : List PinEvent) (n : Nat) :
    EStateM.Result Stop State α → EStateM.Result Stop State α → Prop
  | ok {v : α} {t t' : State} (hix : t.freeIx = n) (h : Alike tr t t') : Follow tr n (.ok v t) (.ok v t')
  | error {e : Stop} {t t' : State} (hix : t.freeIx = n) (h : Alike tr t t') : Follow tr n (.error e t) (.error e t')
  | guessedOk {v : α} {t : State} {r' : EStateM.Result Stop State α} (hix : n < t.freeIx) (h : Live t) :
      Follow tr n (.ok v t) r'
  | guessedError {e : Stop} {t : State} {r' : EStateM.Result Stop State α} (hix : n < t.freeIx) (h : Live t) :
      Follow tr n (.error e t) r'

/-- From states alike the procedure runs alike. -/
def Follows {α : Type} (tr : List PinEvent) (x : Op α) : Prop :=
  ∀ s s', Alike tr s s' → Follow tr s.freeIx (x s) (x s')

/-- A free value taken before stays taken. -/
theorem Follow.guessed {α : Type} {tr : List PinEvent} {m n : Nat} {r r' r'' : EStateM.Result Stop State α}
    (h : Follow tr n r r') (hm : m < n) : Follow tr m r r'' := by
  cases h with
  | ok hix h => exact .guessedOk (hix ▸ hm) h.live
  | error hix h => exact .guessedError (hix ▸ hm) h.live
  | guessedOk hix h => exact .guessedOk (hm.trans hix) h
  | guessedError hix h => exact .guessedError (hm.trans hix) h

section Compose

variable {α β : Type} {tr : List PinEvent} {x : Op α} {f : α → Op β}

theorem Follows.pure (v : α) : Follows tr (pure v : Op α) := fun _ _ h => .ok rfl h

theorem Follows.raise (e : OpError) : Follows tr (raise e : Op α) := fun _ _ h => .error rfl h

theorem Follows.bind (hx : Follows tr x) (hf : ∀ v, Follows tr (f v)) : Follows tr (x >>= f) := by
  intro s s' hs
  have h := hx s s' hs
  generalize hr : x s = r, hr' : x s' = r' at h
  cases h with
  | ok hix ht =>
    rw [op_bind_ok hr, op_bind_ok hr', ← hix]
    exact hf _ _ _ ht
  | error hix ht =>
    rw [op_bind_error hr, op_bind_error hr']
    exact .error hix ht
  | guessedOk hix ht =>
    rw [op_bind_ok hr]
    exact (hf _ _ _ (ht.alike tr)).guessed hix
  | guessedError hix ht =>
    rw [op_bind_error hr]
    exact .guessedError hix ht

/-- Only the results are read. -/
theorem Follows.get_bind {f : State → Op β} (hsame : ∀ {s s'}, sameResults s s' → f s' = f s)
    (hf : ∀ s, Follows tr (f s)) : Follows tr (get >>= f) := by
  intro s s' hs
  rw [op_bind_ok (op_get s), op_bind_ok (op_get s'), hsame hs.results]
  exact hf s _ _ hs

theorem Follows.modify {g : State → State} (hix : ∀ s, (g s).freeIx = s.freeIx)
    (hg : ∀ {s s'}, Alike tr s s' → Alike tr (g s) (g s')) : Follows tr (modify g : Op Unit) := fun _ _ h =>
  .ok (hix _) (hg h)

end Compose

section Procedures

variable {tr : List PinEvent}

/-! ### Pin events and delays -/

theorem pinEvent_follows {act : Bool → State → State} (hix : ∀ b s, (act b s).freeIx = s.freeIx)
    (hact : ∀ b s s', Alike tr s s' → Alike tr (act b s) (act b s')) : Follows tr (pinEvent act) := by
  intro s s' hs
  have hquiet' : s'.quiet 0 := quiet_of_inputs hs.inputs hs.live.quiet
  unfold pinEvent
  rw [settle_quiet 0 hs.live.quiet, settle_quiet 0 hquiet']
  obtain ⟨hpins, hlook, ht⟩ | ⟨hlook, ht⟩ := hs.look
  · simp only [hpins]
    split
    · exact .error hlook (ht.emit _)
    · exact .ok ((hix _ _).trans hlook) (hact _ _ _ ht)
  · dsimp only
    split
    · exact .guessedError hlook ((ht.alike tr).emit _).live
    · exact .guessedOk (hlook.trans_eq (hix _ _).symm) (hact _ _ _ (ht.alike tr)).live

theorem pinLow_follows : Follows tr pinLow :=
  .bind (pinEvent_follows (fun _ _ => rfl) fun _ _ _ h => h.driven true true .low) fun _ => .pure ()

theorem pinRelease_follows : Follows tr pinRelease :=
  .bind (pinEvent_follows (fun _ _ => rfl) fun _ _ _ h => h.driven false false .release) fun _ => .pure ()

theorem pinSample_follows : Follows tr pinSample :=
  pinEvent_follows (act := fun b s => s.emit (.sample b)) (fun _ _ => rfl) fun b _ _ h => h.emit (.sample b)

theorem delay_follows (t : Nat) : Follows tr (delay t) := by
  intro s s' hs
  have hquiet' : s'.quiet 0 := quiet_of_inputs hs.inputs hs.live.quiet
  rw [delay_quiet t hs.live.quiet, delay_quiet t hquiet']
  exact .ok rfl (hs.emit _)

theorem awaitFrom_follows (l : List Input) {s s' : State} (hi : s.inputs = l) (hs : Alike tr s s') :
    Follow tr s.freeIx (awaitFrom l s) (awaitFrom l s') := by
  induction l generalizing s s' with
  | nil => exact .error rfl hs
  | cons x rest ih =>
    match x with
    | .host _ => exact .error rfl hs
    | .during ev => exact absurd (hs.live.undisturbed (.during ev) (by simp [hi])) (by simp [Input.isDuring])
    | .pins p =>
      unfold awaitFrom
      split
      · exact .error rfl ((hs.next hi s.seq s'.seq).emit _)
      · split
        · exact .ok rfl ((hs.next hi _ _).emit _)
        · exact ih rfl (hs.next hi s.seq s'.seq)

theorem awaitHigh_follows : Follows tr awaitHigh := by
  intro s s' hs
  have hsame : awaitHigh s' = awaitFrom s.inputs { s' with seq := .waitHigh } :=
    congrArg (awaitFrom · { s' with seq := .waitHigh }) hs.inputs
  rw [hsame]
  exact awaitFrom_follows s.inputs (s := { s with seq := .waitHigh }) rfl (hs.at_seq .waitHigh)

/-! ### The timing primitives and the codec -/

theorem recordPresence_follows (p : Bool) : Follows tr (recordPresence p) := .modify (fun _ => rfl) fun h => h.latch p

theorem initSeq_follows (P : Profile) : Follows tr (initSeq P) :=
  awaitHigh_follows.bind fun _ => pinLow_follows.bind fun _ => (delay_follows _).bind fun _ =>
  pinRelease_follows.bind fun _ => (delay_follows _).bind fun _ => pinSample_follows.bind fun _ =>
  (recordPresence_follows _).bind fun _ => (delay_follows _).bind fun _ => .pure _

theorem readBit_follows (P : Profile) : Follows tr (readBit P) :=
  pinLow_follows.bind fun _ => (delay_follows _).bind fun _ => pinRelease_follows.bind fun _ =>
  (delay_follows _).bind fun _ => pinSample_follows.bind fun _ => (delay_follows _).bind fun _ => .pure _

theorem writeBit_follows (P : Profile) (b : Bool) : Follows tr (writeBit P b) :=
  pinLow_follows.bind fun _ => (delay_follows _).bind fun _ => pinRelease_follows.bind fun _ => delay_follows _

theorem readBits_follows (n : Nat) (acc : Byte) : Follows tr (readBits n acc) := by
  induction n generalizing acc with
  | zero => exact .pure _
  | succ n ih => exact (readBit_follows _).bind fun _ => ih _

theorem writeBits_follows (l : List Bool) : Follows tr (writeBits l) := by
  induction l with
  | nil => exact .pure _
  | cons b r ih => exact (writeBit_follows _ b).bind fun _ => ih

theorem writeByte_follows (v : Byte) : Follows tr (writeByte v) := writeBits_follows _

theorem busRead_follows (n : Nat) : Follows tr (busRead n) := by
  induction n with
  | zero => exact .pure _
  | succ n ih => exact (readBits_follows 8 _).bind fun _ => ih.bind fun _ => .pure _

theorem busWrite_follows (l : List Byte) : Follows tr (busWrite l) := by
  induction l with
  | nil => exact .pure _
  | cons v r ih => exact (writeByte_follows v).bind fun _ => ih

/-! ### Checks, addressing, function commands -/

theorem checkCrc_follows (data : List Byte) : Follows tr (checkCrc data) := by
  unfold checkCrc
  split
  · exact .pure _
  · exact .raise _

theorem validateConfig_follows (v : Byte) : Follows tr (validateConfig v) := by
  unfold validateConfig
  split
  · exact .pure _
  · exact .raise _

theorem addrOperandCheck_follows (am : AddrMode) : Follows tr (addrOperandCheck am) := by
  cases am with
  | noAddr | skipAddr => exact .pure _
  | matchAddr => exact .get_bind (fun h => by rw [h.addr_buf.1]) fun _ => checkCrc_follows _

theorem prologue_follows : Follows tr prologue :=
  (initSeq_follows _).bind fun p => by
    cases p with
    | false => exact .raise _
    | true => exact .pure _

theorem addressing_follows (am : AddrMode) : Follows tr (addressing am) := by
  cases am with
  | noAddr => exact .pure _
  | skipAddr => exact prologue_follows.bind fun _ => writeByte_follows _
  | matchAddr =>
    refine prologue_follows.bind fun _ => (writeByte_follows _).bind fun _ => ?_
    exact .get_bind (fun h => by rw [h.addr_buf.1]) fun _ => busWrite_follows _

theorem pollFrom_follows (n : Nat) : Follows tr (pollFrom n) := by
  induction n with
  | zero => exact .raise _
  | succ n ih =>
    refine (readBit_follows _).bind fun b => ?_
    cases b with
    | false => exact ih
    | true => exact .modify (fun _ => rfl) fun h => h.setBitFlag _

theorem readPowerTail_follows : Follows tr readPowerTail :=
  (readBit_follows _).bind fun _ => .modify (fun _ => rfl) fun h => h.setBitFlag _

theorem readSpTail_follows : Follows tr readSpTail :=
  (busRead_follows 9).bind fun _ => (checkCrc_follows _).bind fun _ => (validateConfig_follows _).bind fun _ =>
  .modify (fun _ => rfl) fun h => h.commitScratchpad _ _

theorem writeSpTail_follows : Follows tr writeSpTail :=
  .get_bind (fun h => by simp only [State.bufByte, h.addr_buf.2]) fun _ => busWrite_follows _

end Procedures

/-! ### The ends -/

/-- What the host and an observer of the pins see of two operations that ended, the second with the events `tr` first. -/
structure EndAlike (tr : List PinEvent) (u v : State) : Prop where
  trace   : v.pinTrace = tr.reverse ++ u.pinTrace
  results : sameResults u v
  status  : v.statusWord = u.statusWord
  inputs  : v.inputs = u.inputs

/-- `PRESENCE`, `BIT`, `LAST` and `RES` are those of states alike, the rest of `STATUS` is the end's own. -/
theorem Alike.settled {tr : List PinEvent} {s s' : State} (h : Alike tr s s') {indicate : State → State}
    (hend : indicate = State.indicateOk ∨ ∃ e, indicate = State.indicateError e) :
    EndAlike tr (indicate s.settleIdle) (indicate s'.settleIdle) := by
  obtain ⟨-, -, -, -, -, hbit, hlast, hres⟩ := h.results
  obtain rfl | ⟨e, rfl⟩ := hend
  all_goals
    exact ⟨by simp [State.pinTrace, h.trace], by simpa [sameResults] using h.results,
      by simp [State.statusWord, State.busy, State.waitHigh, h.presence, hbit, hlast, hres], by simpa using h.inputs⟩

section Ended

variable {tr : List PinEvent} {w w' : Word} {x x' : Op Unit} {s s' : State} {r' : EStateM.Result Stop State Unit}

/-- An operation that ended, every look at the line answered, returned or failed, and so did the run alike. -/
theorem Follow.ended (h : Follow tr s.freeIx (x (s.accept w)) r') (hdone : (s.operate w x).done = true)
    (hix : (s.operate w x).freeIx = s.freeIx + 1) :
    (∃ t t', x (s.accept w) = .ok () t ∧ r' = .ok () t' ∧ Alike tr t t')
      ∨ ∃ e t t', x (s.accept w) = .error (.raised e) t ∧ r' = .error (.raised e) t' ∧ Alike tr t t' := by
  unfold State.operate at hdone hix
  generalize x (s.accept w) = r at h hdone hix ⊢
  cases h with
  | ok _ ht => exact .inl ⟨_, _, rfl, rfl, ht⟩
  | guessedOk hlt _ => exact absurd (Nat.succ.inj hix) hlt.ne'
  | @error e _ _ _ ht =>
    cases e with
    | raised e => exact .inr ⟨e, _, _, rfl, rfl, ht⟩
    | waiting | rst => exact absurd hdone (by simp [ht.live.undone])
  | @guessedError e _ _ hlt ht =>
    cases e with
    | raised e => exact absurd (Nat.succ.inj hix) hlt.ne'
    | waiting | rst => exact absurd hdone (by simp [ht.undone])

theorem Follow.operate (h : Follow tr s.freeIx (x (s.accept w)) (x' (s'.accept w')))
    (hdone : (s.operate w x).done = true) (hix : (s.operate w x).freeIx = s.freeIx + 1) :
    EndAlike tr (s.operate w x) (s'.operate w' x') := by
  obtain ⟨t, t', ht, ht', halike⟩ | ⟨e, t, t', ht, ht', halike⟩ := h.ended hdone hix
  · rw [operate_ok ht, operate_ok ht']
    exact halike.settled (.inl rfl)
  · rw [operate_raised ht, operate_raised ht']
    exact halike.settled (.inr ⟨e, rfl⟩)

end Ended

/-- The next operation is accepted in a state like the one in which the first had its work done. -/
theorem Alike.accept_next {s s' : State} (h : Alike [] s s') (w : Word) :
    Alike s.finishOk.trace (s.finishOk.accept w) s' :=
  ⟨⟨rfl, by simpa using h.live.undisturbed⟩, by simpa [sameResults] using h.results, by simpa using h.presence,
    by simpa using h.trace, by simpa using h.inputs⟩

/-! ### The addressing step as an operation of its own (R93, R210) -/

/-- R171, R172: an addressing operation is the check and the addressing step of its mode. -/
theorem exec_addressing {am : AddrMode} {first : Instr}
    (h : (am = .skipAddr ∧ first = .skipRom) ∨ (am = .matchAddr ∧ first = .matchRom)) :
    exec first = operation (encode first) (addrOperandCheck am >>= fun _ => addressing am) := by
  obtain ⟨rfl, rfl⟩ | ⟨rfl, rfl⟩ := h
  · rfl
  · rfl

/-- R210: a function command whose checks and addressing step succeed goes on from the state they leave. -/
theorem functionFrame_addressed {am : AddrMode} {check body : Op Unit} {c : Byte} {s t : State}
    (hcheck : check s = .ok () s) (h : (addrOperandCheck am >>= fun _ => addressing am) s = .ok () t) :
    functionFrame am check c body s = (writeByte c >>= fun _ => body) t := by
  have haddr : addrOperandCheck am s = .ok () s := addrOperandCheck_ok fun ham => by
    subst ham
    by_contra hcrc
    rw [op_bind_error (addrOperandCheck_bad hcrc)] at h
    cases h
  rw [op_bind_ok haddr] at h
  rw [functionFrame, op_bind_ok haddr, op_bind_ok hcheck, op_bind_ok h]

/-- R210: a function command is the frame around its operand check, its command byte and its body. -/
theorem exec_functionFrame {mk : AddrMode → Instr}
    (h : mk ∈ [Instr.convertT, Instr.recallE2, Instr.readPower, Instr.copySp, Instr.readSp, Instr.writeSp]) :
    ∃ check c body, (∀ am, exec (mk am) = operation (encode (mk am)) (functionFrame am check c body))
      ∧ (∀ am (s : State), (checksConfig (mk am) = true → ∃ idx, s.buf[4] = configByte idx) → check s = .ok () s)
      ∧ (∀ tr, Follows tr body) ∧ hasInitSeq (mk .noAddr) = false := by
  simp only [List.mem_cons, List.not_mem_nil, or_false] at h
  obtain rfl | rfl | rfl | rfl | rfl | rfl := h
  · exact ⟨_, _, _, fun _ => rfl, fun _ _ _ => rfl, fun _ => .pure (), rfl⟩
  · exact ⟨_, _, _, fun _ => rfl, fun _ _ _ => rfl, fun _ => pollFrom_follows _, rfl⟩
  · exact ⟨_, _, _, fun _ => rfl, fun _ _ _ => rfl, fun _ => readPowerTail_follows, rfl⟩
  · exact ⟨_, _, _, fun _ => rfl, fun _ _ _ => rfl, fun _ => delay_follows _, rfl⟩
  · exact ⟨_, _, _, fun _ => rfl, fun _ _ _ => rfl, fun _ => readSpTail_follows, rfl⟩
  · exact ⟨_, _, _, fun _ => rfl, fun _ _ h => bufConfigCheck_ok (h rfl), fun _ => writeSpTail_follows, rfl⟩

/-- An operation without an initialization sequence has no wait for the line in it: it ends. -/
theorem done_of_exec {i : Instr} {s t : State} (hi : hasInitSeq i = false) (hrst : s.noRst) (h : exec i s = .next t) :
    t.done = true := by
  obtain ⟨_, _, -, -, rfl⟩ | ⟨_, _, -, -, rfl⟩ | ⟨hinit, -⟩ | ⟨hbad, -⟩ := exec_cases h
  · rfl
  · rfl
  · rw [hi] at hinit
    cases hinit
  · exact absurd hrst hbad

theorem noRst_of_undisturbed {s : State} (h : ∀ x ∈ s.inputs, x.isDuring = false) : s.noRst := fun x hx => by
  have hx := h x hx
  match x with
  | .pins _ | .host _ => rfl
  | .during _ => cases hx

/-- An addressing operation that succeeded: with another command word its step returns too, in a state alike. -/
theorem addressing_of_success {am : AddrMode} {first : Instr} {s t : State}
    (hfirst : (am = .skipAddr ∧ first = .skipRom) ∨ (am = .matchAddr ∧ first = .matchRom))
    (hcalm : ∀ x ∈ s.inputs, x.isDuring = false) (ht : exec first s = .next t) (hdone : t.done = true)
    (herr : t.err = false) (hix : t.freeIx = s.freeIx + 1) (w : Word) :
    ∃ t₁ t₂, t = t₁.finishOk ∧ (addrOperandCheck am >>= fun _ => addressing am) (s.accept w) = .ok () t₂
      ∧ Alike [] t₁ t₂ := by
  have haccepted : Alike [] (s.accept (encode first)) (s.accept w) :=
    ⟨⟨rfl, hcalm⟩, ⟨rfl, rfl, rfl, rfl, rfl, rfl, rfl, rfl⟩, rfl, rfl, rfl⟩
  have hstep : Follows [] (addrOperandCheck am >>= fun _ => addressing am) :=
    (addrOperandCheck_follows am).bind fun _ => addressing_follows am
  rw [exec_addressing hfirst] at ht
  obtain rfl := Host.Outcome.next.inj ht
  obtain ⟨t₁, t₂, hrun, hrun', halike⟩ | ⟨e, t₁, -, hrun, -⟩ :=
    Follow.ended (s := s) (hstep _ _ haccepted) hdone hix
  · exact ⟨t₁, t₂, operate_ok hrun, hrun', halike⟩
  · rw [operate_raised hrun] at herr
    cases herr

/-- An addressing operation writes no `BUF` (R25). -/
theorem buf_of_addressing {am : AddrMode} {first : Instr} {s t : State}
    (hfirst : (am = .skipAddr ∧ first = .skipRom) ∨ (am = .matchAddr ∧ first = .matchRom))
    (hrst : s.noRst) (ht : exec first s = .next t) : t.buf = s.buf := by
  obtain ⟨-, -, -, -, hbuf, -⟩ := operationWritesOnlyItsOwnResults first s t hrst ht
  obtain ⟨-, rfl⟩ | ⟨-, rfl⟩ := hfirst
  · exact hbuf rfl
  · exact hbuf rfl

/-- Settles O59: the addressing step runs alike in both operations, and so does what follows it. -/
theorem addressModeIsTheAddressingOperationFirst : Obligations.AddressModeIsTheAddressingOperationFirst := by
  intro mk am first s t u hmk hfirst hcfg hcalm ht hdone herr hix hu hixu
  obtain ⟨check, c, body, hexec, hcheck, hbody, hinit⟩ := exec_functionFrame hmk
  have hbuf := buf_of_addressing hfirst (noRst_of_undisturbed hcalm) ht
  obtain ⟨t₁, t₂, rfl, hrun, halike⟩ := addressing_of_success hfirst hcalm ht hdone herr hix (encode (mk am))
  have hudone := done_of_exec hinit (noRst_of_undisturbed (s := t₁.finishOk) halike.live.undisturbed) hu
  rw [hexec] at hu
  obtain rfl := Host.Outcome.next.inj hu
  have hnone : functionFrame .noAddr check c body (t₁.finishOk.accept (encode (mk .noAddr)))
      = (writeByte c >>= fun _ => body) (t₁.finishOk.accept (encode (mk .noAddr))) :=
    functionFrame_addressed (hcheck am _ fun hi => hbuf ▸ hcfg hi) rfl
  have hmode : functionFrame am check c body (s.accept (encode (mk am))) = (writeByte c >>= fun _ => body) t₂ :=
    functionFrame_addressed (hcheck am _ hcfg) hrun
  have hfollow := ((writeByte_follows c).bind fun _ => hbody _) _ _ (halike.accept_next (encode (mk .noAddr)))
  rw [← hnone, ← hmode] at hfollow
  have hend := Follow.operate (s := t₁.finishOk) (s' := s) hfollow hudone (by rw [hixu, hix])
  exact ⟨_, congrFun (hexec am) s, hend.trace, hend.results, hend.status, hend.inputs⟩

end Sys2Proof.Machine

/-! ## A step of an idle OWM, and how an operation ends (R123, R240, R244, R245, R250) -/

namespace Sys2Proof.Machine

/-- R240, R245: a legal word written to `CMD` starts its operation, however the host placed the write. -/
theorem hostEvent_command {w : Word} {i : Instr} (hd : decode w = .ok i) (s : State) :
    hostEvent (.write offCmd w) s = exec i s := by
  rw [hostEvent, if_pos rfl, command, hd]

/-- Settles O6: the next input of an idle OWM is the write of the word, as it is after `withFetchWord`. -/
theorem stepRunsTheDecodedOperation : Obligations.StepRunsTheDecodedOperation := by
  have hstep : ∀ (s : State) (w : Word) (i : Instr) (rest : List Input), s.seq = .idle →
      (s.inputs = .host (.write offCmd w) :: rest ∨ s.inputs = .during (.write offCmd w) :: rest) →
      decode w = .ok i → step s = exec i { s with inputs := rest } := by
    intro s w i rest hseq hin hd
    rw [step_of_idle (by rw [State.busy, hseq]; rfl), idleStep]
    obtain hin | hin := hin <;> rw [hin] <;> exact hostEvent_command hd _
  refine ⟨hstep, fun s i hwf => ?_⟩
  have hword : BitVec.ofNat 32 ((encode i).toNat % 2 ^ 32) = encode i := by
    rw [Nat.mod_eq_of_lt (encode i).isLt, BitVec.ofNat_toNat, BitVec.setWidth_eq]
  refine hstep _ (encode i) i s.inputs rfl (.inl ?_) (decodeOfEncodeIsTheInstruction i hwf)
  rw [State.withFetchWord, hword]

/-- Settles O24: the procedure of `NOP` returns at once; a step with nothing to come changes nothing. -/
theorem nopOnlyClearsTheIndication : Obligations.NopOnlyClearsTheIndication :=
  ⟨fun s => congrArg Host.Outcome.next (operate_ok (op_pure () (s.accept (encode .nop)))), rfl, rfl⟩

/-! ### The answers left to an operation that waits -/

/-- No answer of the line is next among the inputs. -/
def State.unanswered (s : State) : Prop := ∀ p, s.inputs.head? ≠ some (.pins p)

theorem settleFrom_ne_waiting (left : Nat) (l : List Input) (s t : State) :
    settleFrom left l s ≠ .error .waiting t := by
  induction l generalizing s with
  | nil => nofun
  | cons x rest ih =>
    match x with
    | .pins p | .host h => exact nofun
    | .during (.rst n) => exact nofun
    | .during (.write off d) | .during (.read off) => exact ih _

theorem pinEvent_ne_waiting (act : Bool → State → State) (s t : State) : pinEvent act s ≠ .error .waiting t := by
  unfold pinEvent
  match hs : settle 0 s with
  | .error .waiting u => exact absurd hs (settleFrom_ne_waiting 0 s.inputs s u)
  | .error (.raised e) u | .error .rst u => exact nofun
  | .ok _ u =>
    simp only
    split <;> exact nofun

/-- R123: what leaves `AwaitHigh` waiting is that no answer is next. -/
theorem awaitFrom_waiting (l : List Input) {s t : State} (hi : s.inputs = l) (h : awaitFrom l s = .error .waiting t) :
    t.unanswered := by
  induction l generalizing s with
  | nil => cases h; exact fun p => by simp [hi]
  | cons x rest ih =>
    match x with
    | .host ev => cases h; exact fun p => by simp [hi]
    | .during (.rst n) => cases h
    | .during (.write off d) => exact ih (s := { s with inputs := rest }) rfl h
    | .during (.read off) => exact ih (s := State.readReg { s with inputs := rest } off) rfl h
    | .pins p =>
      unfold awaitFrom at h
      split at h
      · cases h
      · split at h
        · cases h
        · exact ih (s := { s with inputs := rest }) rfl h

/-- A procedure that is left waiting has no answer to come (R123). -/
def WaitsUnanswered {α : Type} (x : Op α) : Prop := ∀ s t, x s = .error .waiting t → t.unanswered

theorem WaitsUnanswered.bind {α β : Type} {x : Op α} {f : α → Op β} (hx : WaitsUnanswered x)
    (hf : ∀ s v t, x s = .ok v t → ∀ u, f v t = .error .waiting u → u.unanswered) : WaitsUnanswered (x >>= f) := by
  intro s t h
  match hs : x s with
  | .ok v u =>
    rw [op_bind_ok hs] at h
    exact hf s v u hs t h
  | .error e u =>
    rw [op_bind_error hs] at h
    exact hx s t (hs.trans (by cases h; rfl))

theorem pinEvent_waitsUnanswered (act : Bool → State → State) : WaitsUnanswered (pinEvent act) :=
  fun s t h => absurd h (pinEvent_ne_waiting act s t)

/-- However a procedure is put together, only `AwaitHigh` leaves it waiting. -/
theorem Built.waitsUnanswered {α : Type} {W : Prop} {a b : Bool} {Q : α → Prop} {x : Op α} (h : Built W a b Q x) :
    WaitsUnanswered x := by
  induction h with
  | ret hv | fail he | setHidden _ _ => exact fun _ _ => nofun
  | seq hx _ ihx ihf => exact ihx.bind fun s v t hs => ihf v (hx.returns hs) t
  | read _ _ ihf => exact fun s t h => ihf s s t h
  | wait n => exact .bind (fun s t h => absurd h (settleFrom_ne_waiting n s.inputs s t)) fun _ _ _ _ _ => nofun
  | low => exact .bind (pinEvent_waitsUnanswered fun _ => State.driveLow) fun _ _ _ _ _ => nofun
  | release => exact .bind (pinEvent_waitsUnanswered fun _ => State.releaseLine) fun _ _ _ _ _ => nofun
  | sample => exact pinEvent_waitsUnanswered _
  | await _ => exact fun s t h => awaitFrom_waiting s.inputs (s := { s with seq := .waitHigh }) rfl h

/-- An operation that waits has no answer to come. -/
theorem exec_waitsUnanswered {i : Instr} {s t : State} (h : exec i s = .next t) (ht : t.seq = .waitHigh) :
    t.unanswered := by
  obtain ⟨_, hexec, p, rfl, hp⟩ := exec_commits i
  obtain rfl : s.operate (encode i) (p >>= modify) = t := by
    rw [hexec] at h
    exact Host.Outcome.next.inj h
  match hr : p (s.accept (encode i)) with
  | .ok f u =>
    rw [State.operate, op_bind_ok hr, op_modify] at ht
    cases ht
  | .error (.raised e) u =>
    rw [State.operate, op_bind_error hr] at ht
    cases ht
  | .error .waiting u =>
    rw [State.operate, op_bind_error hr]
    exact hp.waitsUnanswered _ u hr
  | .error .rst u =>
    have hruns := hp.runsTo (s.accept (encode i))
    rw [hr] at hruns
    obtain ⟨-, v, rfl⟩ := hruns
    rw [State.operate, op_bind_error hr] at ht
    cases ht

/-- Settles O21: the four ways an operation ends, of which `rst` is excluded. -/
theorem operationEndsOrWaitsForTheLine : Obligations.OperationEndsOrWaitsForTheLine := by
  intro i s t hrst ht
  obtain ⟨f, u, -, -, rfl⟩ | ⟨e, u, -, -, rfl⟩ | ⟨hi, hw, hseq, -⟩ | ⟨hnot, -⟩ := exec_cases ht
  · exact .inl ⟨rfl, rfl⟩
  · exact .inl ⟨rfl, rfl⟩
  · exact .inr ⟨hi, hseq, hw.done, hw.err, hw.sameResults, exec_waitsUnanswered ht hseq⟩
  · exact absurd hrst hnot

end Sys2Proof.Machine

/-! ## A busy OWM ends or waits (R123, R243, R247, R250)

No counter of the sequencer runs for ever: every slot ends, every phase ends with its last slot, and the phases of an
operation follow each other in the order of its plan. So from any position OWM comes to an end or to `AwaitHigh`. -/

namespace Sys2Proof.Machine

/-! ### The moves of the sequencer, position by position (R243) -/

/-- A single byte has no next byte, whatever its number. -/
theorem nextTx_single (i : Instr) (p : Phase) (at_ : Nat → Seq) (lastBit k j : Nat) :
    State.nextTx i p (fun _ => at_) 1 lastBit 0 j = State.nextTx i p (fun _ => at_) 1 lastBit k j := by
  funext s
  simp [State.nextTx]

section Moves

variable {i : Instr} {s : State} {j k : Nat} {p : SlotPos}

theorem move_decode (h : s.seq = .decode) : s.move i = (s.prepare i).enter ((plan i).headD .complete) := by
  rw [State.move, h]

theorem move_check (h : s.seq = .check) : s.move i = s.checkTick i := by rw [State.move, h]

theorem move_waitHigh (h : s.seq = .waitHigh) : s.move i = s.awaitTick i := by rw [State.move, h]

theorem move_rst (h : s.seq = .rst p) : s.move i = s.slotTick .reset p .rst keepPresence (State.afterInitSeq i) := by
  rw [State.move, h]

theorem move_txAddrCmd (k : Nat) (h : s.seq = .txAddrCmd j p) :
    s.move i = s.slotTick (.write ((addrCmdByte (addrModeOfOp i)).getLsbD j)) p (.txAddrCmd j) (fun _ h => h)
      (State.nextTx i .txAddrCmd (fun _ j' => .txAddrCmd j' .low) 1 7 k j) := by
  rw [State.move, h, ← nextTx_single]

theorem move_txAddr (h : s.seq = .txAddr k j p) :
    s.move i = s.slotTick (.write (s.addr.getLsbD (8 * k + j))) p (.txAddr k j) (fun _ h => h)
      (State.nextTx i .txAddr (fun k' j' => .txAddr k' j' .low) 8 7 k j) := by
  rw [State.move, h]

theorem move_txCmd (k : Nat) (h : s.seq = .txCmd j p) :
    s.move i = s.slotTick (.write (i.opc.getLsbD j)) p (.txCmd j) (fun _ h => h)
      (State.nextTx i .txCmd (fun _ j' => .txCmd j' .low) 1 7 k j) := by
  rw [State.move, h, ← nextTx_single]

theorem move_txData (h : s.seq = .txData k j p) :
    s.move i = s.slotTick (.write ((txByte i s k).getLsbD j)) p (.txData k j) (fun _ h => h)
      (State.nextTx i .txData (fun k' j' => .txData k' j' .low) (payloadBytesOf i) (lastBitOf i) k j) := by
  rw [State.move, h]

theorem move_rxData (h : s.seq = .rxData k j p) :
    s.move i = s.slotTick .read p (.rxData k j) keepPayloadBit (State.nextRx i k j) := by
  rw [State.move, h]

theorem move_srch_read {t : Triplet} (ht : t ≠ .wb) (h : s.seq = .srch k t p) :
    s.move i = s.slotTick .read p (.srch k t) keepBit (State.nextTriplet i k t) := by
  rw [State.move, h]
  cases t with
  | r1 | r2 => rfl
  | wb => exact absurd rfl ht

theorem move_srch_wb (h : s.seq = .srch k .wb p) :
    s.move i = s.slotTick (.write (s.chosenBit k)) p (.srch k .wb) (fun _ h => h) (State.nextTriplet i k .wb) := by
  rw [State.move, h]

theorem move_poll (h : s.seq = .poll k p) :
    s.move i = s.slotTick .read p (.poll k) keepBit (State.nextPoll i k) := by
  rw [State.move, h]

theorem move_hold (h : s.seq = .hold) : s.move i = s.elapse.advance i .hold := by rw [State.move, h]

theorem move_validate (h : s.seq = .validate) : s.move i = s.validateTick i := by rw [State.move, h]

theorem move_complete_ok (h : s.seq = .complete none) : s.move i = (s.commit i).finishOk := by rw [State.move, h]

theorem move_complete_error {e : OpError} (h : s.seq = .complete (some e)) : s.move i = s.raiseError e := by
  rw [State.move, h]

end Moves

/-! ### Steps one after the other -/

/-- Some number of steps leads from `s` to `t`. -/
def Reaches (s t : State) : Prop := ∃ n, Sys2Proof.core.run n s = .next t

theorem Reaches.refl (s : State) : Reaches s s := ⟨0, rfl⟩

theorem run_succ (M : Host.Core) {n : Nat} {s s' : M.State} (h : M.step s = .next s') : M.run (n + 1) s = M.run n s' := by
  rw [Host.Core.run, h]

theorem Reaches.of_tick {s t : State} (hs : s.busy = true) (h : Reaches s.tick t) : Reaches s t := by
  obtain ⟨n, hn⟩ := h
  exact ⟨n + 1, (run_succ Sys2Proof.core (step_of_busy hs)).trans hn⟩

/-- Where no host event comes in between, the next step is a move of the sequencer. -/
theorem tick_of_undisturbed {s : State} (h : s.seq.timed = true → ∀ ev rest, s.inputs ≠ .during ev :: rest) :
    s.tick = s.sequence := by
  unfold State.tick
  split
  next ev rest htimed hin => exact absurd hin (h htimed ev rest)
  next => rfl

theorem Reaches.of_move {i : Instr} {s t : State} (hd : decode s.cmd = .ok i) (hs : s.busy = true)
    (hin : s.seq.timed = true → ∀ ev rest, s.inputs ≠ .during ev :: rest) (h : Reaches (s.move i) t) :
    Reaches s t := by
  refine .of_tick hs ?_
  rwa [tick_of_undisturbed hin, State.sequence, hd]

/-- The host event that comes is taken first. -/
theorem Reaches.of_busyEvent {s t : State} {ev : HostEvent} {rest : List Input} (htimed : s.seq.timed = true)
    (hin : s.inputs = .during ev :: rest) (h : Reaches ({ s with inputs := rest }.busyEvent s.hid.tmr ev) t) :
    Reaches s t := by
  refine .of_tick (busy_of_timed htimed) ?_
  rwa [State.tick, htimed, hin]

/-- R249: after an abort comes the error end, whatever the word in `CMD`. -/
theorem Reaches.of_complete_error {s t : State} {e : OpError} (hq : s.seq = .complete (some e))
    (h : Reaches (s.raiseError e) t) : Reaches s t := by
  refine .of_tick (by rw [State.busy, hq]; rfl) ?_
  rw [tick_of_undisturbed (by simp [hq, Seq.timed]), State.sequence]
  split
  next => rwa [move_complete_error hq]
  next => rwa [hq]

/-! ### What ends, or waits -/

/-- Some number of steps leads to an idle OWM, or to one that waits for the line. -/
def EndsOrWaits (s : State) : Prop := ∃ t, Reaches s t ∧ (t.busy = false ∨ t.waitHigh = true)

theorem endsOrWaits_of_idle {s : State} (h : s.busy = false) : EndsOrWaits s := ⟨s, .refl s, .inl h⟩

theorem endsOrWaits_of_waiting {s : State} (h : s.seq = .waitHigh) : EndsOrWaits s :=
  ⟨s, .refl s, .inr (by rw [State.waitHigh, h]; rfl)⟩

theorem endsOrWaits_of_complete_error {s : State} {e : OpError} (h : s.seq = .complete (some e)) : EndsOrWaits s :=
  ⟨s.raiseError e, .of_complete_error h (.refl _), .inl rfl⟩

theorem endsOrWaits_abort (e : OpError) (s : State) : EndsOrWaits (s.abort e) := endsOrWaits_of_complete_error rfl

/-- Host events that come before a move are finitely many, and leave the position as it is or end the operation. -/
theorem endsOrWaits_of_move {i : Instr} {s : State} (hd : decode s.cmd = .ok i) (hs : s.busy = true)
    (h : ∀ u : State, u.seq = s.seq → u.hid = s.hid → u.cmd = s.cmd → EndsOrWaits (u.move i)) : EndsOrWaits s := by
  have hundisturbed : ∀ {s : State}, decode s.cmd = .ok i → s.busy = true → EndsOrWaits (s.move i) →
      (s.seq.timed = true → ∀ ev rest, s.inputs ≠ .during ev :: rest) → EndsOrWaits s := fun hd hs ⟨t, hreach, ht⟩ hin =>
    ⟨t, .of_move hd hs hin hreach, ht⟩
  induction hl : s.inputs generalizing s with
  | nil => exact hundisturbed hd hs (h s rfl rfl rfl) fun _ ev rest => by simp [hl]
  | cons x rest ih =>
    by_cases hin : s.seq.timed = true → ∀ ev rest, s.inputs ≠ .during ev :: rest
    · exact hundisturbed hd hs (h s rfl rfl rfl) hin
    · push Not at hin
      obtain ⟨htimed, ev, rest', hin⟩ := hin
      obtain ⟨rfl, rfl⟩ := List.cons.inj (hl.symm.trans hin)
      have hev : EndsOrWaits ({ s with inputs := rest }.busyEvent s.hid.tmr ev) := by
        cases ev with
        | rst t => exact endsOrWaits_of_idle rfl
        | write off w => exact ih (s := { s with inputs := rest }) hd hs h rfl
        | read off => exact ih (s := State.readReg { s with inputs := rest } off) hd hs h rfl
      obtain ⟨t, hreach, ht⟩ := hev
      exact ⟨t, .of_busyEvent htimed hin hreach, ht⟩

theorem endsOrWaits_pinTick {act : Bool → State → State} {s : State}
    (h : ∀ b u, u.seq = s.seq → u.cmd = s.cmd → EndsOrWaits (act b u)) : EndsOrWaits (s.pinTick act) := by
  unfold State.pinTick
  split
  · exact endsOrWaits_abort _ _
  · exact h _ _ (look_seq s) (look_working s).cmd

/-! ### A slot ends -/

/-- How many positions of a slot are still to come at most. -/
def SlotPos.left : SlotPos → Nat
  | .low => 3
  | .rel => 2
  | .sample => 1
  | .tail => 0

theorem Slot.left_of_nextPos {sl : Slot} {p q : SlotPos} (h : sl.nextPos p = some q) : q.left < p.left := by
  cases sl <;> cases p <;> cases h <;> decide

/-- R6: no delay of a slot is empty. -/
theorem Slot.span_pos (sl : Slot) (p : SlotPos) : 0 < sl.span Config.profile p := by
  cases sl with
  | write b => cases b <;> cases p <;> decide
  | read | reset => cases p <;> decide

/-- From any position of a slot OWM comes to what follows the slot, or it ends before. -/
theorem endsOrWaits_slot {i : Instr} {at_ : SlotPos → Seq} {next : State → State} (hat : ∀ p, (at_ p).timed = true)
    (hmove : ∀ (p : SlotPos) (u : State), u.seq = at_ p → ∃ sl keep, u.move i = u.slotTick sl p at_ keep next)
    (hnext : ∀ u : State, decode u.cmd = .ok i → EndsOrWaits (next u)) (p : SlotPos) {s : State} (hq : s.seq = at_ p)
    (hd : decode s.cmd = .ok i) : EndsOrWaits s := by
  induction hn : p.left using Nat.strong_induction_on generalizing p s with
  | _ n ih =>
    have hbusy : ∀ {u : State} {q : SlotPos}, u.seq = at_ q → u.busy = true := fun hu =>
      busy_of_timed (by rw [hu]; exact hat _)
    have hlater : ∀ {u : State} {q : SlotPos}, u.seq = at_ q → q.left < p.left → decode u.cmd = .ok i → EndsOrWaits u :=
      fun hu hlt hdu => ih _ (hn ▸ hlt) _ hu hdu rfl
    have hrunning : ∀ {u : State}, u.seq = at_ p → decode u.cmd = .ok i → 0 < u.hid.tmr → EndsOrWaits u := by
      intro u hu hdu htmr
      refine endsOrWaits_of_move hdu (hbusy hu) fun v hv hhid hcmd => ?_
      obtain ⟨sl, _, hsl⟩ := hmove p v (hv.trans hu)
      rw [hsl]
      unfold State.slotTick
      rw [if_pos (by rw [hhid]; exact htmr)]
      split
      next q hpos => exact hlater rfl (Slot.left_of_nextPos hpos) (by rw [State.goto_cmd, State.elapse_cmd, hcmd, hdu])
      next => exact hnext _ (by rw [State.elapse_cmd, hcmd, hdu])
    by_cases htmr : 0 < s.hid.tmr
    · exact hrunning hq hd htmr
    · refine endsOrWaits_of_move hd (hbusy hq) fun v hv hhid hcmd => ?_
      obtain ⟨sl, _, hsl⟩ := hmove p v (hv.trans hq)
      rw [hsl]
      unfold State.slotTick
      rw [if_neg (by rw [hhid]; exact htmr)]
      have hdv : ∀ {u : State}, u.cmd = v.cmd → decode u.cmd = .ok i := fun hu => by rw [hu, hcmd, hd]
      cases p with
      | low => exact endsOrWaits_pinTick fun _ u hu hc => hrunning (hu.trans (hv.trans hq)) (hdv hc) (sl.span_pos _)
      | rel => exact endsOrWaits_pinTick fun _ u hu hc => hrunning (hu.trans (hv.trans hq)) (hdv hc) (sl.span_pos _)
      | sample => exact endsOrWaits_pinTick fun _ u _ hc => hlater rfl (by decide) (hdv hc)
      | tail =>
        cases sl with
        | write b =>
          exact endsOrWaits_pinTick fun _ u hu hc =>
            hrunning (hu.trans (hv.trans hq)) (hdv hc) (Slot.span_pos (.write b) .tail)
        | read | reset => exact hnext v (hdv rfl)

/-- What follows slot `x` of a series whose counters run down: another slot of it, or the way to the end. -/
def Proceeds {ι : Type} (left : ι → Nat ×ₗ Nat) (at_ : ι → SlotPos → Seq) (x : ι) (s u : State) : Prop :=
  (∃ y, left y < left x ∧ u.seq = at_ y .low ∧ u.cmd = s.cmd) ∨ EndsOrWaits u

/-- A series of slots ends (R247). -/
theorem endsOrWaits_slots {i : Instr} {ι : Type} (left : ι → Nat ×ₗ Nat) {at_ : ι → SlotPos → Seq}
    {next : ι → State → State} (hat : ∀ x p, (at_ x p).timed = true)
    (hmove : ∀ x p (u : State), u.seq = at_ x p → ∃ sl keep, u.move i = u.slotTick sl p (at_ x) keep (next x))
    (hnext : ∀ x (u : State), decode u.cmd = .ok i → Proceeds left at_ x u (next x u))
    (x : ι) {p : SlotPos} {s : State} (hq : s.seq = at_ x p) (hd : decode s.cmd = .ok i) : EndsOrWaits s := by
  induction hn : left x using WellFoundedLT.induction generalizing x p s with
  | _ n ih =>
    refine endsOrWaits_slot (hat x) (hmove x) (fun u hu => ?_) p hq hd
    obtain ⟨y, hlt, hseq, hcmd⟩ | hend := hnext x u hu
    · exact ih _ (hn ▸ hlt) y hseq (hcmd ▸ hu) rfl
    · exact hend

/-! ### A phase ends -/

/-- The phase of a position (R243). -/
def Seq.phase : Seq → Option Phase
  | .idle => none
  | .decode => none
  | .check => some .check
  | .waitHigh => some .waitHigh
  | .rst _ => some .rst
  | .txAddrCmd _ _ => some .txAddrCmd
  | .txAddr _ _ _ => some .txAddr
  | .txCmd _ _ => some .txCmd
  | .txData _ _ _ => some .txData
  | .rxData _ _ _ => some .rxData
  | .srch _ _ _ => some .srch
  | .poll _ _ => some .poll
  | .hold => some .hold
  | .validate => some .validate
  | .complete _ => some .complete

theorem enter_phase (p : Phase) (s : State) : (s.enter p).seq.phase = some p := by cases p <;> rfl

/-- Bits to come, byte by byte (R247). -/
def bitsLeft (count lastBit : Nat) (x : Nat × Nat) : Nat ×ₗ Nat := toLex (count - x.1, lastBit - x.2)

theorem bitsLeft_nextBit {count lastBit k j : Nat} (h : j < lastBit) :
    bitsLeft count lastBit (k, j + 1) < bitsLeft count lastBit (k, j) :=
  Prod.Lex.toLex_lt_toLex.2 (.inr ⟨rfl, Nat.sub_lt_sub_left h (Nat.lt_succ_self j)⟩)

theorem bitsLeft_nextByte {count lastBit k j : Nat} (h : k + 1 < count) :
    bitsLeft count lastBit (k + 1, 0) < bitsLeft count lastBit (k, j) :=
  Prod.Lex.toLex_lt_toLex.2 (.inl (Nat.sub_lt_sub_left (Nat.lt_of_succ_lt h) (Nat.lt_succ_self k)))

section Phases

variable {i : Instr} {p : Phase} (hadv : ∀ u : State, decode u.cmd = .ok i → EndsOrWaits (u.advance i p))
  {s : State} (hd : decode s.cmd = .ok i)

include hadv hd

theorem nextTx_proceeds (at_ : Nat → Nat → SlotPos → Seq) (count lastBit k j : Nat) :
    Proceeds (bitsLeft count lastBit) (fun x => at_ x.1 x.2) (k, j) s
      (s.nextTx i p (fun k' j' => at_ k' j' .low) count lastBit k j) := by
  unfold State.nextTx
  split
  next hj => exact .inl ⟨(k, j + 1), bitsLeft_nextBit hj, rfl, rfl⟩
  next =>
    split
    next hk => exact .inl ⟨(k + 1, 0), bitsLeft_nextByte hk, rfl, rfl⟩
    next => exact .inr (hadv s hd)

end Phases

section Phases

variable {i : Instr} {s : State} (hd : decode s.cmd = .ok i)

include hd

theorem nextRx_proceeds (hadv : ∀ u : State, decode u.cmd = .ok i → EndsOrWaits (u.advance i .rxData)) (k j : Nat) :
    Proceeds (bitsLeft (payloadBytesOf i) (lastBitOf i)) (fun x => .rxData x.1 x.2) (k, j) s (s.nextRx i k j) := by
  unfold State.nextRx
  split
  next hj => exact .inl ⟨(k, j + 1), bitsLeft_nextBit hj, rfl, rfl⟩
  next =>
    split
    next hk => exact .inl ⟨(k + 1, 0), bitsLeft_nextByte hk, rfl, rfl⟩
    next => exact .inr (hadv _ hd)

/-- Slots to come, triplet by triplet (R247). -/
def slotsLeft (x : Nat × Triplet) : Nat ×ₗ Nat :=
  toLex (64 - x.1, match x.2 with | .r1 => 2 | .r2 => 1 | .wb => 0)

theorem nextTriplet_proceeds (hadv : ∀ u : State, decode u.cmd = .ok i → EndsOrWaits (u.advance i .srch)) (k : Nat)
    (t : Triplet) : Proceeds slotsLeft (fun x => .srch x.1 x.2) (k, t) s (s.nextTriplet i k t) := by
  unfold State.nextTriplet
  cases t with
  | r1 => exact .inl ⟨(k, .r2), Prod.Lex.toLex_lt_toLex.2 (.inr ⟨rfl, Nat.one_lt_two⟩), rfl, rfl⟩
  | r2 =>
    simp only
    split
    next => exact .inr (endsOrWaits_abort _ _)
    next => exact .inl ⟨(k, .wb), Prod.Lex.toLex_lt_toLex.2 (.inr ⟨rfl, Nat.one_pos⟩), rfl, rfl⟩
  | wb =>
    simp only
    split
    next hk =>
      refine .inl ⟨(k + 1, .r1), Prod.Lex.toLex_lt_toLex.2 (.inl ?_), rfl, rfl⟩
      exact Nat.sub_lt_sub_left (Nat.lt_succ_of_lt hk) (Nat.lt_succ_self k)
    next => exact .inr (hadv _ hd)

theorem nextPoll_proceeds (hadv : ∀ u : State, decode u.cmd = .ok i → EndsOrWaits (u.advance i .poll)) (k : Nat) :
    Proceeds (fun k => toLex (Config.recallPolls - k, 0)) .poll k s (s.nextPoll i k) := by
  unfold State.nextPoll
  split
  next => exact .inr (hadv s hd)
  next =>
    split
    next hk =>
      exact .inl ⟨k + 1, Prod.Lex.toLex_lt_toLex.2 (.inl (Nat.sub_lt_sub_left hk (Nat.lt_succ_self k))), rfl, rfl⟩
    next => exact .inr (endsOrWaits_abort _ _)

end Phases

/-! ### Every phase ends -/

section Phases

variable {i : Instr} {s : State} (hd : decode s.cmd = .ok i)

include hd

theorem endsOrWaits_checkTick (hadv : ∀ u : State, decode u.cmd = .ok i → EndsOrWaits (u.advance i .check)) :
    EndsOrWaits (s.checkTick i) := by
  unfold State.checkTick
  split
  next => exact endsOrWaits_abort _ _
  next =>
    split
    next => exact endsOrWaits_abort _ _
    next => exact hadv s hd

theorem endsOrWaits_verdict (hadv : ∀ u : State, decode u.cmd = .ok i → EndsOrWaits (u.advance i .validate)) :
    EndsOrWaits (s.verdict i) := by
  unfold State.verdict
  split
  next => exact hadv s hd
  next => exact endsOrWaits_abort _ _

theorem endsOrWaits_validateTick (hadv : ∀ u : State, decode u.cmd = .ok i → EndsOrWaits (u.advance i .validate)) :
    EndsOrWaits (s.validateTick i) := by
  unfold State.validateTick
  split
  next => exact hadv _ hd
  next => exact endsOrWaits_verdict hd hadv
  next =>
    split
    next => exact endsOrWaits_abort _ _
    next => exact endsOrWaits_verdict hd hadv
  next => exact endsOrWaits_verdict hd hadv

theorem endsOrWaits_afterInitSeq (hadv : ∀ u : State, decode u.cmd = .ok i → EndsOrWaits (u.advance i .rst)) :
    EndsOrWaits (s.afterInitSeq i) := by
  unfold State.afterInitSeq
  split
  next => exact hadv s hd
  next => exact endsOrWaits_abort _ _

/-- A phase ends when the phases after it do. -/
theorem endsOrWaits_phase {p : Phase} (hadv : ∀ u : State, decode u.cmd = .ok i → EndsOrWaits (u.advance i p))
    (hs : s.seq.phase = some p) (hp : p ≠ .complete) : EndsOrWaits s := by
  cases hq : s.seq with
  | idle | decode => rw [hq] at hs; cases hs
  | complete r => rw [hq] at hs; cases hs; exact absurd rfl hp
  | waitHigh => exact endsOrWaits_of_waiting hq
  | check =>
    rw [hq] at hs; cases hs
    refine endsOrWaits_of_move hd (by rw [State.busy, hq]; rfl) fun u hu _ hc => ?_
    rw [move_check (hu.trans hq)]
    exact endsOrWaits_checkTick (hc ▸ hd) hadv
  | hold =>
    rw [hq] at hs; cases hs
    refine endsOrWaits_of_move hd (by rw [State.busy, hq]; rfl) fun u hu _ hc => ?_
    rw [move_hold (hu.trans hq)]
    exact hadv u.elapse (hc ▸ hd)
  | validate =>
    rw [hq] at hs; cases hs
    refine endsOrWaits_of_move hd (by rw [State.busy, hq]; rfl) fun u hu _ hc => ?_
    rw [move_validate (hu.trans hq)]
    exact endsOrWaits_validateTick (hc ▸ hd) hadv
  | rst q =>
    rw [hq] at hs; cases hs
    exact endsOrWaits_slot (fun _ => rfl) (fun _ _ hu => ⟨_, _, move_rst hu⟩)
      (fun u hu => endsOrWaits_afterInitSeq hu hadv) q hq hd
  | txAddrCmd j q =>
    rw [hq] at hs; cases hs
    exact endsOrWaits_slots (bitsLeft 1 7) (at_ := fun x => .txAddrCmd x.2) (fun _ _ => rfl)
      (fun x _ _ hu => ⟨_, _, move_txAddrCmd x.1 hu⟩)
      (fun x u hu => nextTx_proceeds hadv hu (fun _ => .txAddrCmd) 1 7 x.1 x.2) (0, j) hq hd
  | txAddr k j q =>
    rw [hq] at hs; cases hs
    exact endsOrWaits_slots (bitsLeft 8 7) (at_ := fun x => .txAddr x.1 x.2) (fun _ _ => rfl)
      (fun _ _ _ hu => ⟨_, _, move_txAddr hu⟩)
      (fun x u hu => nextTx_proceeds hadv hu .txAddr 8 7 x.1 x.2) (k, j) hq hd
  | txCmd j q =>
    rw [hq] at hs; cases hs
    exact endsOrWaits_slots (bitsLeft 1 7) (at_ := fun x => .txCmd x.2) (fun _ _ => rfl)
      (fun x _ _ hu => ⟨_, _, move_txCmd x.1 hu⟩)
      (fun x u hu => nextTx_proceeds hadv hu (fun _ => .txCmd) 1 7 x.1 x.2) (0, j) hq hd
  | txData k j q =>
    rw [hq] at hs; cases hs
    exact endsOrWaits_slots (bitsLeft (payloadBytesOf i) (lastBitOf i)) (at_ := fun x => .txData x.1 x.2)
      (fun _ _ => rfl) (fun _ _ _ hu => ⟨_, _, move_txData hu⟩)
      (fun x u hu => nextTx_proceeds hadv hu .txData _ _ x.1 x.2) (k, j) hq hd
  | rxData k j q =>
    rw [hq] at hs; cases hs
    exact endsOrWaits_slots (bitsLeft (payloadBytesOf i) (lastBitOf i)) (at_ := fun x => .rxData x.1 x.2)
      (fun _ _ => rfl) (fun _ _ _ hu => ⟨_, _, move_rxData hu⟩)
      (fun x u hu => nextRx_proceeds hu hadv x.1 x.2) (k, j) hq hd
  | srch k t q =>
    rw [hq] at hs; cases hs
    refine endsOrWaits_slots slotsLeft (at_ := fun x => .srch x.1 x.2) (fun _ _ => rfl) (fun x p u hu => ?_)
      (fun x u hu => nextTriplet_proceeds hu hadv x.1 x.2) (k, t) hq hd
    obtain ⟨k, t⟩ := x
    by_cases ht : t = .wb
    · subst ht; exact ⟨_, _, move_srch_wb hu⟩
    · exact ⟨_, _, move_srch_read ht hu⟩
  | poll k q =>
    rw [hq] at hs; cases hs
    exact endsOrWaits_slots _ (at_ := .poll) (fun _ _ => rfl) (fun _ _ _ hu => ⟨_, _, move_poll hu⟩)
      (fun x u hu => nextPoll_proceeds hu hadv x) k hq hd

end Phases

/-! ### The phases of an operation, from the last one back (R241, R246) -/

theorem plan_nodup (i : Instr) : (plan i).Nodup := by
  cases i with
  | rbytes n | wbytes n => simp only [plan]; split <;> decide
  | convertT am | recallE2 am | readPower am | copySp am | readSp am | writeSp am => cases am <;> decide
  | _ => simp only [plan]; decide

theorem phaseAfter_append {p : Phase} (r : List Phase) {l : List Phase} (h : p ∉ l) :
    phaseAfter p (l ++ p :: r) = r.headD .complete := by
  induction l with
  | nil => simp [phaseAfter]
  | cons q l ih =>
    rw [List.mem_cons, not_or] at h
    rw [List.cons_append, phaseAfter, if_neg (Ne.symm h.1), ih h.2]

theorem phaseAfter_of_not_mem {p : Phase} {l : List Phase} (h : p ∉ l) : phaseAfter p l = .complete := by
  induction l with
  | nil => rfl
  | cons q l ih =>
    rw [List.mem_cons, not_or] at h
    rw [phaseAfter, if_neg (Ne.symm h.1), ih h.2]

/-- No phase comes twice, so what follows a phase in a plan is what stands after it. -/
theorem phaseAfter_of_plan {i : Instr} {p : Phase} {l r : List Phase} (h : plan i = l ++ p :: r) :
    phaseAfter p (plan i) = r.headD .complete := by
  have hnodup := plan_nodup i
  have hnotin : p ∉ l := fun hp => by
    rw [h] at hnodup
    exact List.disjoint_of_nodup_append hnodup hp (by simp)
  rw [h, phaseAfter_append r hnotin]

/-- `COMPLETE` is the end, with success or with an error. -/
theorem endsOrWaits_complete {s : State} {i : Instr} (hd : decode s.cmd = .ok i) (hs : s.seq.phase = some .complete) :
    EndsOrWaits s := by
  cases hq : s.seq with
  | complete r =>
    refine endsOrWaits_of_move hd (by rw [State.busy, hq]; rfl) fun u hu _ _ => endsOrWaits_of_idle ?_
    cases r with
    | none => rw [move_complete_ok (hu.trans hq)]; rfl
    | some e => rw [move_complete_error (hu.trans hq)]; rfl
  | _ => rw [hq] at hs; cases hs

/-- From the first phase of what is left of a plan. -/
theorem endsOrWaits_enter {i : Instr} {l r : List Phase} (h : plan i = l ++ r) {s : State} (hd : decode s.cmd = .ok i) :
    EndsOrWaits (s.enter (r.headD .complete)) := by
  induction r generalizing l s with
  | nil => exact endsOrWaits_complete (s := s.enter .complete) hd rfl
  | cons p r ih =>
    have hcmd : decode (s.enter p).cmd = .ok i := by rw [(enter_working p s).cmd, hd]
    by_cases hp : p = .complete
    · exact endsOrWaits_complete hcmd (by rw [hp]; rfl)
    · refine endsOrWaits_phase hcmd (fun u hu => ?_) (enter_phase p s) hp
      rw [State.advance, phaseAfter_of_plan h]
      exact ih (l := l ++ [p]) (by simp [h]) hu

/-- Also from a phase that is not in the plan. -/
theorem endsOrWaits_advance {i : Instr} (p : Phase) {s : State} (hd : decode s.cmd = .ok i) :
    EndsOrWaits (s.advance i p) := by
  by_cases hp : p ∈ plan i
  · obtain ⟨l, r, hl⟩ := List.append_of_mem hp
    rw [State.advance, phaseAfter_of_plan hl]
    exact endsOrWaits_enter (l := l ++ [p]) (by simp [hl]) hd
  · rw [State.advance, phaseAfter_of_not_mem hp]
    exact endsOrWaits_complete (s := s.enter .complete) hd rfl

theorem endsOrWaits_of_legal_word {i : Instr} {s : State} (hd : decode s.cmd = .ok i) (hs : s.busy = true) :
    EndsOrWaits s := by
  cases hphase : s.seq.phase with
  | some p =>
    by_cases hp : p = .complete
    · exact endsOrWaits_complete hd (hp ▸ hphase)
    · exact endsOrWaits_phase hd (fun u hu => endsOrWaits_advance p hu) hphase hp
  | none =>
    cases hq : s.seq with
    | idle => rw [State.busy, hq] at hs; cases hs
    | decode =>
      refine endsOrWaits_of_move hd hs fun u hu _ hc => ?_
      rw [move_decode (hu.trans hq)]
      exact endsOrWaits_enter (l := []) rfl (by rw [(prepare_working i u).cmd, hc, hd])
    | _ => rw [hq] at hphase; cases hphase

/-- R245: an illegal word only awaits its error end. -/
theorem endsOrWaits_of_illegal_word {s : State} {e : DecodeError} (hd : decode s.cmd = .error e) (hinv : s.Inv)
    (hs : s.busy = true) : EndsOrWaits s := by
  obtain ⟨-, hseq, -, -⟩ := hinv
  rw [State.seqOk, hd] at hseq
  obtain hq | hq | ⟨r, hq⟩ := hseq
  · rw [State.busy, hq] at hs; cases hs
  · have hnext : s.tick = s.abort (.illegalCommand (opcOf s.cmd)) := by
      rw [tick_of_undisturbed (by simp [hq, Seq.timed]), State.sequence, hd, hq]
    obtain ⟨t, hreach, ht⟩ := endsOrWaits_abort (.illegalCommand (opcOf s.cmd)) s
    exact ⟨t, .of_tick hs (hnext ▸ hreach), ht⟩
  · exact endsOrWaits_of_complete_error hq

/-- Settles O58: by the word in `CMD`. -/
theorem busyOwmEndsOrWaits : Obligations.BusyOwmEndsOrWaits := by
  intro s hinv hs
  have hends : EndsOrWaits s := by
    cases hd : decode s.cmd with
    | ok i => exact endsOrWaits_of_legal_word hd hs
    | error e => exact endsOrWaits_of_illegal_word hd hinv hs
  obtain ⟨t, ⟨n, hn⟩, ht⟩ := hends
  exact ⟨n, t, hn, ht⟩

end Sys2Proof.Machine

/-! ## The moves of the sequencer follow the procedure of the operation (R240 to R251)

The state of the sequencer goes along with the state of the procedure: the two differ in the position and in the working
state only. One lemma per procedure says where its events bring the sequencer, whatever comes after (`Leads`); an operation
is then the sequence of its phases. -/

namespace Sys2Proof.Machine

/-- The state of the sequencer that goes along with the state `b` of a procedure: position `q`, `TMR` at `t`, working
state `h`. The presence latch is the one of `b`. -/
def State.onSeq (b : State) (q : Seq) (t : Nat) (h : Hidden) : State :=
  { b with seq := q, hid := { h with tmr := t, presence := b.hid.presence } }

theorem onSeq_hid {b : State} (h : b.hid.tmr = 0) (q : Seq) : b.onSeq q 0 b.hid = b.goto q := by
  rw [State.onSeq, ← h]
  rfl

/-- The state an operation leaves, by the end of its procedure (R242, R262). -/
def conclude : EStateM.Result Stop State Unit → State
  | .ok _ t => t.finishOk
  | .error (.raised e) t => t.raiseError e
  | .error .waiting t => t
  | .error .rst t => t

theorem operate_eq_conclude (w : Word) (body : Op Unit) (s : State) : s.operate w body = conclude (body (s.accept w)) := by
  unfold State.operate conclude
  split <;> simp only [*]

/-- Some number of steps from `m` leads to the state the operation leaves when `x` is what remains of its procedure in
state `b`. -/
def Leads (m : State) (x : Op Unit) (b : State) : Prop := Reaches m (conclude (x b))

/-- `b` is inside the operation accepted in `s`, outside `AwaitHigh`. -/
structure Underway (s b : State) : Prop where
  working : Working s b
  busy    : b.busy = true
  waiting : b.waitHigh = false

theorem Leads.of_eq {m m' b : State} {x : Op Unit} (h : m = m') (hm : Leads m' x b) : Leads m x b := h ▸ hm

theorem Leads.of_bind_pure {m b : State} {x : Op Unit} (h : Leads m (x >>= fun _ => pure ()) b) : Leads m x b := by
  simpa using h

/-- R249: an abort leads to the error end. -/
theorem leads_raise (b : State) (q : Seq) (t : Nat) (h : Hidden) (e : OpError) :
    Leads ((b.onSeq q t h).abort e) (raise e) b := .of_complete_error rfl (.refl _)

theorem leads_raise_bind {α : Type} (b : State) (q : Seq) (t : Nat) (h : Hidden) (e : OpError) (f : α → Op Unit) :
    Leads ((b.onSeq q t h).abort e) (raise e >>= f) b := leads_raise b q t h e

/-! ### Host events that come (R41, R43, R291) -/

theorem onSeq_abandon (b : State) (q : Seq) (t : Nat) (h : Hidden) (left n : Nat) :
    (b.onSeq q t h).abandon left n = b.abandon left n := by
  unfold State.abandon State.emitPart
  split <;> rfl

/-- A read sees the same registers and the same view of `SEQ`. -/
theorem onSeq_readReg {b : State} {q : Seq} (hbusy : q.busy = b.busy) (hwait : q.waiting = b.waitHigh) (t : Nat)
    (h : Hidden) (off : BitVec 4) : (b.onSeq q t h).readReg off = (b.readReg off).onSeq q t h := by
  have hstatus : (b.onSeq q t h).statusWord = b.statusWord := by
    simp only [State.statusWord, State.busy, State.waitHigh, State.onSeq] at hbusy hwait ⊢
    rw [hbusy, hwait]
  have hread : (b.onSeq q t h).hostRead off = b.hostRead off := by
    unfold State.hostRead
    rw [hstatus]
    rfl
  unfold State.readReg
  rw [hread]
  rfl

theorem Underway.congr {s b b' : State} (hb : Underway s b) (hw : Working b b') (hseq : b'.seq = b.seq) : Underway s b' :=
  ⟨hb.working.trans hw, by rw [State.busy, hseq]; exact hb.busy, by rw [State.waitHigh, hseq]; exact hb.waiting⟩

/-- Positions in which time passes, `AwaitHigh` left out: those of the slots, and `HOLD`. -/
def Seq.running (q : Seq) : Prop := q.timed = true ∧ q.waiting = false

theorem op_bind_congr {α β : Type} {x : Op α} {s t : State} (h : x s = x t) (f : α → Op β) :
    (x >>= f) s = (x >>= f) t := by
  simp only [bind, EStateM.bind, h]

/-- Where no host event comes there is nothing to take in. -/
theorem settle_undisturbed {s : State} (left : Nat) (h : ∀ ev rest, s.inputs ≠ .during ev :: rest) :
    settle left s = .ok () s := by
  unfold settle
  match hi : s.inputs with
  | [] | .pins p :: rest | .host ev :: rest => rfl
  | .during ev :: rest => exact absurd hi (h ev rest)

/-! ### The moves inside a slot (R243) -/

section SlotTick

variable {sl : Slot} {p : SlotPos} {at_ : SlotPos → Seq} {keep : Bool → Hidden → Hidden} {next : State → State}
  {s : State}

theorem slotTick_nextPos {q : SlotPos} (h : 0 < s.hid.tmr) (hq : sl.nextPos p = some q) :
    s.slotTick sl p at_ keep next = s.elapse.goto (at_ q) := by
  unfold State.slotTick
  rw [if_pos h, hq]

theorem slotTick_over (h : 0 < s.hid.tmr) (hq : sl.nextPos p = none) :
    s.slotTick sl p at_ keep next = next s.elapse := by
  unfold State.slotTick
  rw [if_pos h, hq]

theorem slotTick_low (h : s.hid.tmr = 0) : s.slotTick sl .low at_ keep next
    = s.pinTick fun _ u => u.driveLow.startDelay (sl.span Config.profile .low) := by
  unfold State.slotTick
  rw [if_neg (by omega)]

theorem slotTick_rel (h : s.hid.tmr = 0) : s.slotTick sl .rel at_ keep next
    = s.pinTick fun _ u => u.releaseLine.startDelay (sl.span Config.profile .rel) := by
  unfold State.slotTick
  rw [if_neg (by omega)]

theorem slotTick_sample (h : s.hid.tmr = 0) : s.slotTick sl .sample at_ keep next
    = s.pinTick fun b u => (({ u with hid := keep b u.hid }.emit (.sample b)).goto (at_ .tail)).startDelay
        (sl.span Config.profile .tail) := by
  unfold State.slotTick
  rw [if_neg (by omega)]

theorem slotTick_writeTail {v : Bool} (h : s.hid.tmr = 0) : s.slotTick (.write v) .tail at_ keep next
    = s.pinTick fun _ u => u.releaseLine.startDelay (writeHigh Config.profile v) := by
  unfold State.slotTick
  rw [if_neg (by omega)]

end SlotTick

/-- R140: the eight bits shifted in are those of the byte. -/
theorem bitsOf_shiftAll {l : List Bool} (hl : l.length = 8) (acc : Byte) : bitsOf (shiftAll l acc) = l := by
  match l, hl with
  | [b0, b1, b2, b3, b4, b5, b6, b7], _ =>
    exact (congrArg bitsOf (shiftAll_eight (fun j => [b0, b1, b2, b3, b4, b5, b6, b7].getD j false) acc)).trans
      (bitsOf_byteOfBits _)

/-! ### The slots of an operation -/

/-- In operation `i` the position of a slot of kind `sl` is `at_`; a sample goes into `keep`, and `next` comes after the
slot. `H` says for which working states. -/
structure SlotOf (i : Instr) (s : State) (sl : Slot) (at_ : SlotPos → Seq) (keep : Bool → Hidden → Hidden)
    (next : State → State) (H : Hidden → Prop) : Prop where
  running : ∀ p, (at_ p).running
  move    : ∀ b p t h, Underway s b → H h → (b.onSeq (at_ p) t h).move i
    = (b.onSeq (at_ p) t h).slotTick sl p at_ keep next

section SlotOf

variable (i : Instr) (s : State)

theorem slotOf_rst : SlotOf i s .reset .rst keepPresence (State.afterInitSeq i) fun _ => True :=
  ⟨fun _ => ⟨rfl, rfl⟩, fun _ _ _ _ _ _ => move_rst rfl⟩

theorem slotOf_txAddrCmd (k j : Nat) : SlotOf i s (.write ((addrCmdByte (addrModeOfOp i)).getLsbD j)) (.txAddrCmd j)
    (fun _ h => h) (State.nextTx i .txAddrCmd (fun _ j' => .txAddrCmd j' .low) 1 7 k j) fun _ => True :=
  ⟨fun _ => ⟨rfl, rfl⟩, fun _ _ _ _ _ _ => move_txAddrCmd k rfl⟩

theorem slotOf_txAddr (k j : Nat) : SlotOf i s (.write (s.addr.getLsbD (8 * k + j))) (.txAddr k j) (fun _ h => h)
    (State.nextTx i .txAddr (fun k' j' => .txAddr k' j' .low) 8 7 k j) fun _ => True :=
  ⟨fun _ => ⟨rfl, rfl⟩, fun _ _ _ _ hb _ => hb.working.addr ▸ move_txAddr rfl⟩

theorem slotOf_txCmd (k j : Nat) : SlotOf i s (.write (i.opc.getLsbD j)) (.txCmd j) (fun _ h => h)
    (State.nextTx i .txCmd (fun _ j' => .txCmd j' .low) 1 7 k j) fun _ => True :=
  ⟨fun _ => ⟨rfl, rfl⟩, fun _ _ _ _ _ _ => move_txCmd k rfl⟩

theorem txByte_congr {b : State} (h : b.buf = s.buf) (k : Nat) : txByte i b k = txByte i s k := by
  simp only [txByte, State.bufByte, h]

theorem slotOf_txData (k j : Nat) : SlotOf i s (.write ((txByte i s k).getLsbD j)) (.txData k j) (fun _ h => h)
    (State.nextTx i .txData (fun k' j' => .txData k' j' .low) (payloadBytesOf i) (lastBitOf i) k j) fun _ => True :=
  ⟨fun _ => ⟨rfl, rfl⟩, fun _ p t h hb _ =>
    txByte_congr i s (b := State.onSeq _ (.txData k j p) t h) hb.working.buf k ▸ move_txData rfl⟩

theorem slotOf_rxData (k j : Nat) :
    SlotOf i s .read (.rxData k j) keepPayloadBit (State.nextRx i k j) fun _ => True :=
  ⟨fun _ => ⟨rfl, rfl⟩, fun _ _ _ _ _ _ => move_rxData rfl⟩

theorem slotOf_srch_read (k : Nat) {t : Triplet} (ht : t ≠ .wb) :
    SlotOf i s .read (.srch k t) keepBit (State.nextTriplet i k t) fun _ => True :=
  ⟨fun _ => ⟨rfl, rfl⟩, fun _ _ _ _ _ _ => move_srch_read ht rfl⟩

/-- R188: the bit written back stays what it is while the working state keeps the two samples. -/
theorem slotOf_srch_wb (k : Nat) (last : Option Nat) (acc : Byte) :
    SlotOf i s (.write (searchChoice s.conflict last k (acc.getLsbD 6) (acc.getLsbD 7))) (.srch k .wb) (fun _ h => h)
      (State.nextTriplet i k .wb) fun h => h.lastPos = last ∧ h.acc = acc := by
  refine ⟨fun _ => ⟨rfl, rfl⟩, fun b p t h hb hh => ?_⟩
  obtain ⟨rfl, rfl⟩ := hh
  rw [← hb.working.conflict]
  exact move_srch_wb rfl

theorem slotOf_poll (k : Nat) : SlotOf i s .read (.poll k) keepBit (State.nextPoll i k) fun _ => True :=
  ⟨fun _ => ⟨rfl, rfl⟩, fun _ _ _ _ _ _ => move_poll rfl⟩

end SlotOf

section Procedures

variable {i : Instr} {s : State}

/-- The host events that come are the same for both, and leave both where they are. -/
theorem leads_settle {q : Seq} (hq : q.running) {left : Nat} {h : Hidden} {f : Op Unit} {b : State} (hb : Underway s b)
    (hk : ∀ b', Underway s b' → b'.hid = b.hid → (∀ ev rest, b'.inputs ≠ .during ev :: rest) →
      Leads (b'.onSeq q left h) f b') : Leads (b.onSeq q left h) (settle left >>= fun _ => f) b := by
  obtain ⟨htimed, hwait⟩ := hq
  have hquiet : ∀ b', Underway s b' → b'.hid = b.hid → (∀ ev rest, b'.inputs ≠ .during ev :: rest) →
      Leads (b'.onSeq q left h) (settle left >>= fun _ => f) b' := fun b' hb' hhid hin => by
    unfold Leads
    rw [op_bind_ok (settle_undisturbed left hin)]
    exact hk b' hb' hhid hin
  induction hi : b.inputs generalizing b with
  | nil => exact hquiet b hb rfl (by simp [hi])
  | cons x rest ih =>
    have hskip : ∀ b' : State, Working b b' → b'.seq = b.seq → b'.hid = b.hid → b'.inputs = rest →
        Leads (b'.onSeq q left h) (settle left >>= fun _ => f) b' := fun b' hw hseq hhid hin =>
      ih (hb.congr hw hseq) (fun c hc hh => hk c hc (hh.trans hhid)) (fun c hc hh => hquiet c hc (hh.trans hhid)) hin
    match x with
    | .pins p | .host ev => exact hquiet b hb rfl (by simp [hi])
    | .during ev =>
      refine .of_busyEvent (s := b.onSeq q left h) htimed hi ?_
      cases ev with
      | rst n =>
        have hrun : settle left b = .error .rst ({ b with inputs := rest }.abandon left n) := by
          rw [settle, hi, settleFrom]
        rw [op_bind_error hrun]
        exact onSeq_abandon { b with inputs := rest } q left h left n ▸ .refl _
      | write off d =>
        have hrun : settle left b = settle left { b with inputs := rest } := by rw [settle, hi, settleFrom]; rfl
        rw [op_bind_congr hrun]
        exact hskip { b with inputs := rest } (by constructor <;> rfl) rfl rfl rfl
      | read off =>
        have hrun : settle left b = settle left (State.readReg { b with inputs := rest } off) := by
          rw [settle, hi, settleFrom]; rfl
        have hbusy : q.busy = true := busy_of_timed (s := b.onSeq q left h) htimed
        have hread := onSeq_readReg (b := { b with inputs := rest }) (hbusy.trans hb.busy.symm)
          (hwait.trans hb.waiting.symm) left h off
        rw [op_bind_congr hrun]
        exact Leads.of_eq hread <| hskip (State.readReg { b with inputs := rest } off) (by constructor <;> rfl) rfl rfl rfl

/-! ### Pin events and delays -/

theorem Underway.decode (hd : decode s.cmd = .ok i) {b : State} (hb : Underway s b) : decode b.cmd = .ok i := by
  rw [hb.working.cmd, hd]

theorem onSeq_look (b : State) (q : Seq) (t : Nat) (h : Hidden) :
    (b.onSeq q t h).look = (b.look.1, b.look.2.onSeq q t h) := by
  unfold State.look
  cases hi : b.inputs with
  | nil => simp [State.onSeq, hi]
  | cons x rest => cases x <;> simp [State.onSeq, hi]

/-- One look at the pins, host events taken in. -/
def lookOnce (act : Bool → State → State) : Op Bool := fun s =>
  if s.look.1.pinFault then .error (.raised (.pinFault s.look.1.pinErr)) (s.look.2.emit (.faulted s.look.1.pinErr))
  else .ok s.look.1.owIn (act s.look.1.owIn s.look.2)

theorem pinEvent_eq (act : Bool → State → State) : pinEvent act = settle 0 >>= fun _ => lookOnce act := by
  funext s
  unfold pinEvent
  match hs : settle 0 s with
  | .ok _ t => rw [op_bind_ok hs]; rfl
  | .error e t => rw [op_bind_error hs]

section Decoded

variable (hd : decode s.cmd = .ok i)
include hd

/-- R126: a pin event, the move being one too. -/
theorem leads_pinEvent {act act' : Bool → State → State} {q : Seq} (hq : q.running) {h : Hidden}
    (hmove : ∀ b, Underway s b → (b.onSeq q 0 h).move i = (b.onSeq q 0 h).pinTick act') {f : Bool → Op Unit}
    {b : State} (hb : Underway s b)
    (hk : ∀ l b', Underway s b' → Leads (act' l (b'.onSeq q 0 h)) (f l) (act l b')) :
    Leads (b.onSeq q 0 h) (pinEvent act >>= f) b := by
  rw [pinEvent_eq, bind_assoc]
  refine leads_settle hq hb fun b' hb' _ hin => ?_
  refine .of_move (hb'.decode hd) (busy_of_timed hq.1) (fun _ => hin) ?_
  rw [hmove b' hb', State.pinTick, onSeq_look]
  by_cases hp : b'.look.1.pinFault = true
  · have hrun : lookOnce act b' = .error (.raised (.pinFault b'.look.1.pinErr))
        (b'.look.2.emit (.faulted b'.look.1.pinErr)) := if_pos hp
    rw [op_bind_error hrun, if_pos hp]
    exact leads_raise (b'.look.2.emit _) q 0 h _
  · have hrun : lookOnce act b' = .ok b'.look.1.owIn (act b'.look.1.owIn b'.look.2) := if_neg hp
    rw [op_bind_ok hrun, if_neg hp]
    exact hk _ _ (hb'.congr (look_working b') (look_seq b'))

theorem leads_delay {t : Nat} {q : Seq} (hq : q.running) {h : Hidden} {next : State → State}
    (hmove : ∀ b, Underway s b → (b.onSeq q t h).move i = next (b.onSeq q t h).elapse) {f : Unit → Op Unit} {b : State}
    (hb : Underway s b)
    (hk : ∀ b', Underway s b' → b'.hid = b.hid → Leads (next (b'.onSeq q 0 h)) (f ()) b') :
    Leads (b.onSeq q t h) (delay t >>= f) b := by
  rw [delay, bind_assoc]
  refine leads_settle hq hb fun b' hb' hhid hin => ?_
  refine .of_move (hb'.decode hd) (busy_of_timed hq.1) (fun _ => hin) ?_
  rw [hmove b' hb', op_bind_ok (op_modify _ b')]
  exact hk (b'.emit (.delay t)) (hb'.congr (emit_working _ b') rfl) hhid

/-! ### The slots (R94, R95, R243) -/

variable {sl : Slot} {at_ : SlotPos → Seq} {keep : Bool → Hidden → Hidden} {next : State → State} {H : Hidden → Prop}
  (hs : SlotOf i s sl at_ keep next H) {h : Hidden} (hH : H h) {b : State} (hb : Underway s b)

include hs hH hb

theorem leads_slotLow {f : Unit → Op Unit}
    (hk : ∀ b', Underway s b' → Leads (b'.onSeq (at_ .low) (sl.span Config.profile .low) h) (f ()) b') :
    Leads (b.onSeq (at_ .low) 0 h) (pinLow >>= f) b := by
  rw [pinLow, bind_assoc]
  refine leads_pinEvent hd (hs.running .low) (fun b' hb' => (hs.move b' .low 0 h hb' hH).trans (slotTick_low rfl)) hb
    fun _ b' hb' => ?_
  exact hk b'.driveLow (hb'.congr (driveLow_working b') rfl)

theorem leads_slotRel {f : Unit → Op Unit}
    (hk : ∀ b', Underway s b' → Leads (b'.onSeq (at_ .rel) (sl.span Config.profile .rel) h) (f ()) b') :
    Leads (b.onSeq (at_ .rel) 0 h) (pinRelease >>= f) b := by
  rw [pinRelease, bind_assoc]
  refine leads_pinEvent hd (hs.running .rel) (fun b' hb' => (hs.move b' .rel 0 h hb' hH).trans (slotTick_rel rfl)) hb
    fun _ b' hb' => ?_
  exact hk b'.releaseLine (hb'.congr (releaseLine_working b') rfl)

theorem leads_slotSample {f : Bool → Op Unit}
    (hk : ∀ v b', Underway s b' →
      Leads (({ b'.onSeq (at_ .tail) 0 h with hid := keep v (b'.onSeq (at_ .tail) 0 h).hid }).startDelay
        (sl.span Config.profile .tail)) (f v) b') :
    Leads (b.onSeq (at_ .sample) 0 h) (pinSample >>= f) b := by
  refine leads_pinEvent hd (hs.running .sample)
    (fun b' hb' => (hs.move b' .sample 0 h hb' hH).trans (slotTick_sample rfl)) hb fun v b' hb' => ?_
  exact hk v (b'.emit (.sample v)) (hb'.congr (emit_working _ b') rfl)

theorem leads_slotDelay {p q : SlotPos} {t : Nat} (ht : 0 < t) (hq : sl.nextPos p = some q) {f : Unit → Op Unit}
    (hk : ∀ b', Underway s b' → Leads (b'.onSeq (at_ q) 0 h) (f ()) b') :
    Leads (b.onSeq (at_ p) t h) (delay t >>= f) b :=
  leads_delay hd (hs.running p) (fun b' hb' => (hs.move b' p t h hb' hH).trans (slotTick_nextPos ht hq)) hb
    fun b' hb' _ => hk b' hb'

/-- The delay of a slot's last position brings the sequencer to what comes after the slot. -/
theorem leads_slotOver {p : SlotPos} {t : Nat} (ht : 0 < t) (hq : sl.nextPos p = none) {f : Unit → Op Unit}
    (hk : ∀ b', Underway s b' → b'.hid = b.hid → Leads (next (b'.onSeq (at_ p) 0 h)) (f ()) b') :
    Leads (b.onSeq (at_ p) t h) (delay t >>= f) b :=
  leads_delay hd (hs.running p) (fun b' hb' => (hs.move b' p t h hb' hH).trans (slotTick_over ht hq)) hb hk

end Decoded

section Decoded

variable (hd : decode s.cmd = .ok i) {at_ : SlotPos → Seq} {next : State → State} {h : Hidden} {b : State}
  (hb : Underway s b)

include hd hb

/-- R125: a write slot. -/
theorem leads_writeBit {v : Bool} {keep : Bool → Hidden → Hidden} {H : Hidden → Prop}
    (hs : SlotOf i s (.write v) at_ keep next H) (hH : H h) {f : Unit → Op Unit}
    (hk : ∀ b', Underway s b' → Leads (next (b'.onSeq (at_ .tail) 0 h)) (f ()) b') :
    Leads (b.onSeq (at_ .low) 0 h) (writeBit Config.profile v >>= f) b := by
  simp only [writeBit, bind_assoc]
  refine leads_slotLow hd hs hH hb fun b hb => ?_
  refine leads_slotDelay hd hs hH hb (Slot.span_pos (.write v) .low) rfl fun b hb => ?_
  rw [pinRelease, bind_assoc]
  refine leads_pinEvent hd (hs.running .tail)
    (fun b' hb' => (hs.move b' .tail 0 h hb' hH).trans (slotTick_writeTail rfl)) hb fun _ b' hb' => ?_
  exact leads_slotOver hd hs hH (b := b'.releaseLine) (hb'.congr (releaseLine_working b') rfl)
    (Slot.span_pos (.write v) .tail) rfl fun b hb _ => hk b hb

/-- R124: a read slot, whose sample is kept beside the presence latch and `TMR`. -/
theorem leads_readBit {keep : Bool → Hidden → Hidden} (hs : SlotOf i s .read at_ keep next fun _ => True)
    (hkeep : ∀ v (b : State) q t t' h, { b.onSeq q t h with hid := keep v (b.onSeq q t h).hid }.startDelay t'
      = b.onSeq q t' (keep v h)) {f : Bool → Op Unit}
    (hk : ∀ v b', Underway s b' → Leads (next (b'.onSeq (at_ .tail) 0 (keep v h))) (f v) b') :
    Leads (b.onSeq (at_ .low) 0 h) (readBit Config.profile >>= f) b := by
  simp only [readBit, bind_assoc]
  refine leads_slotLow hd hs trivial hb fun b hb => ?_
  refine leads_slotDelay hd hs trivial hb (Slot.span_pos .read .low) rfl fun b hb => ?_
  refine leads_slotRel hd hs trivial hb fun b hb => ?_
  refine leads_slotDelay hd hs trivial hb (Slot.span_pos .read .rel) rfl fun b hb => ?_
  refine leads_slotSample hd hs trivial hb fun v b hb => ?_
  rw [hkeep]
  exact leads_slotOver hd hs trivial hb (Slot.span_pos .read .tail) rfl fun b hb _ => hk v b hb

end Decoded

/-! ### The initialization sequence (R122, R123) -/

/-- The wait on the inputs the state holds. -/
def awaitInputs : Op Unit := fun s => awaitFrom s.inputs s

section Decoded

variable (hd : decode s.cmd = .ok i)
include hd

/-- R123: sample by sample; where no answer is left both stand in the same state. -/
theorem leads_awaitInputs {b : State} (hw : Working s b) (hseq : b.seq = .waitHigh) (htmr : b.hid.tmr = 0)
    {f : Unit → Op Unit}
    (hk : ∀ b', Working s b' → b'.seq = .waitHigh → b'.hid = b.hid →
      Leads ((b'.emit .awaited).advance i .waitHigh) (f ()) ({ b' with seq := .rst .low }.emit .awaited)) :
    Leads b (awaitInputs >>= f) b := by
  induction hi : b.inputs generalizing b with
  | nil =>
    have hrun : awaitInputs b = .error .waiting b := by rw [awaitInputs, hi, awaitFrom] <;> simp
    unfold Leads
    rw [op_bind_error hrun]
    exact .refl b
  | cons x rest ih =>
    have htimed : b.seq.timed = true := by rw [hseq]; rfl
    have hnext : ∀ b' : State, awaitInputs b = awaitInputs b' → Working b b' → b'.seq = b.seq → b'.hid = b.hid →
        b'.inputs = rest → Reaches b' (conclude ((awaitInputs >>= f) b)) := fun b' hrun hwb hsb hhb hin => by
      rw [op_bind_congr hrun]
      exact ih (hw.trans hwb) (hsb.trans hseq) (hhb ▸ htmr) (fun c hc hq hh => hk c hc hq (hh.trans hhb)) hin
    match x with
    | .host ev =>
      have hrun : awaitInputs b = .error .waiting b := by rw [awaitInputs, hi, awaitFrom] <;> simp
      unfold Leads
      rw [op_bind_error hrun]
      exact .refl b
    | .during ev =>
      refine .of_busyEvent htimed hi ?_
      cases ev with
      | rst n =>
        have hrun : awaitInputs b = .error .rst ({ b with inputs := rest }.abandon 0 n) := by
          rw [awaitInputs, hi, awaitFrom]
        rw [op_bind_error hrun, htmr]
        exact .refl _
      | write off d =>
        exact hnext { b with inputs := rest } (by rw [awaitInputs, hi, awaitFrom]; rfl) (by constructor <;> rfl) rfl rfl rfl
      | read off =>
        exact hnext (State.readReg { b with inputs := rest } off) (by rw [awaitInputs, hi, awaitFrom]; rfl)
          (by constructor <;> rfl) rfl rfl rfl
    | .pins p =>
      have hlook : b.look = (p, { b with inputs := rest }) := by rw [State.look, hi]
      refine .of_move (by rw [hw.cmd, hd]) (busy_of_timed htimed) (by simp [hi]) ?_
      rw [move_waitHigh hseq, State.awaitTick, State.pinTick, hlook]
      by_cases hp : p.pinFault = true
      · have hrun : awaitInputs b = .error (.raised (.pinFault p.pinErr))
            ({ b with inputs := rest }.emit (.faulted p.pinErr)) := by
          rw [awaitInputs, hi, awaitFrom, if_pos hp]
        rw [op_bind_error hrun, if_pos hp]
        exact .of_complete_error rfl (.refl _)
      · rw [if_neg hp]
        cases hl : p.owIn with
        | true =>
          have hrun : awaitInputs b = .ok () ({ b with inputs := rest, seq := .rst .low }.emit .awaited) := by
            rw [awaitInputs, hi, awaitFrom, if_neg hp, if_pos hl]
          rw [op_bind_ok hrun]
          exact hk { b with inputs := rest } (hw.trans (by constructor <;> rfl)) hseq rfl
        | false =>
          exact hnext { b with inputs := rest } (by rw [awaitInputs, hi, awaitFrom, if_neg hp, hl]; rfl)
            (by constructor <;> rfl) rfl rfl rfl

/-! ### The phases up to the presence sample (R246) -/

/-- R122: the initialization sequence; the presence sample is in the latch. -/
theorem leads_initSeq (hplan : phaseAfter .waitHigh (plan i) = .rst) {b : State} (hw : Working s b)
    (htmr : b.hid.tmr = 0) {f : Bool → Op Unit}
    (hk : ∀ p b', Underway s b' → b'.hid.presence = some p →
      Leads ((b'.onSeq (.rst .tail) 0 b.hid).afterInitSeq i) (f p) b') :
    Leads (b.enter .waitHigh) (initSeq Config.profile >>= f) b := by
  have hrst := slotOf_rst i s
  simp only [initSeq, bind_assoc]
  refine leads_awaitInputs (b := { b with seq := .waitHigh }) hd (hw.trans (by constructor <;> rfl)) rfl htmr
    fun b₁ hw₁ hq₁ hh₁ => ?_
  have hb₁ : Underway s ({ b₁ with seq := .rst .low }.emit .awaited) :=
    ⟨hw₁.trans (by constructor <;> rfl), rfl, rfl⟩
  have hm : (b₁.emit .awaited).advance i .waitHigh
      = ({ b₁ with seq := .rst .low }.emit .awaited).onSeq (.rst .low) 0 b.hid := by
    rw [State.advance, hplan, ← hh₁]
    exact (onSeq_hid (b := { b₁ with seq := .rst .low }.emit .awaited) (hh₁ ▸ htmr) (.rst .low)).symm
  refine .of_eq hm ?_
  refine leads_slotLow hd hrst trivial hb₁ fun b hb => ?_
  refine leads_slotDelay hd hrst trivial hb (Slot.span_pos .reset .low) rfl fun b hb => ?_
  refine leads_slotRel hd hrst trivial hb fun b hb => ?_
  refine leads_slotDelay hd hrst trivial hb (Slot.span_pos .reset .rel) rfl fun b hb => ?_
  refine leads_slotSample hd hrst trivial hb fun v b hb => ?_
  unfold Leads
  rw [recordPresence, op_bind_ok (op_modify _ b)]
  refine leads_slotOver (b := { b with hid := { b.hid with presence := some (!v) } }) hd hrst trivial
    (hb.congr (by constructor <;> rfl) rfl) (Slot.span_pos .reset .tail) rfl fun b' hb' hh' => ?_
  rw [pure_bind]
  exact hk (!v) b' hb' (by rw [hh'])

/-- R173: the prologue of every operation but `INIT`. -/
theorem leads_prologue (hi : i ≠ .init) (hwait : phaseAfter .waitHigh (plan i) = .rst) {p : Phase}
    (hrst : phaseAfter .rst (plan i) = p) {b : State} (hw : Working s b) (htmr : b.hid.tmr = 0) {f : Unit → Op Unit}
    (hk : ∀ q b', Underway s b' → Leads ((b'.onSeq q 0 b.hid).enter p) (f ()) b') :
    Leads (b.enter .waitHigh) (prologue >>= f) b := by
  rw [prologue, bind_assoc]
  refine leads_initSeq hd hwait hw htmr fun p b' hb' hp => ?_
  have hlatch : (b'.onSeq (.rst .tail) 0 b.hid).hid.presence = some p := hp
  unfold State.afterInitSeq
  rw [hlatch]
  cases p with
  | false =>
    rw [if_neg (by simp [hi])]
    exact leads_raise_bind b' _ 0 b.hid .noDevice f
  | true =>
    rw [if_pos (.inr rfl), State.advance, hrst, if_pos rfl, pure_bind]
    exact hk _ b' hb'

end Decoded

/-! ### The transfers (R140 to R143, R247) -/

section Transmit

variable (hd : decode s.cmd = .ok i) {p : Phase} {at_ : Nat → Nat → SlotPos → Seq} {count lastBit : Nat}
  {bit : Nat → Nat → Bool}
  (htx : ∀ k j, SlotOf i s (.write (bit k j)) (at_ k j) (fun _ h => h)
    (State.nextTx i p (fun k' j' => at_ k' j' .low) count lastBit k j) fun _ => True)
  {h : Hidden} {b : State} (hb : Underway s b)

include hd htx hb

/-- The bits of a byte from bit `j` on. -/
theorem leads_writeBits (k : Nat) {j n : Nat} (hj : j + n = lastBit) {f : Unit → Op Unit}
    (hk : ∀ b', Underway s b' →
      Leads ((b'.onSeq (at_ k lastBit .tail) 0 h).nextTx i p (fun k' j' => at_ k' j' .low) count lastBit k lastBit)
        (f ()) b') :
    Leads (b.onSeq (at_ k j .low) 0 h) (writeBits ((List.range' j (n + 1)).map (bit k)) >>= f) b := by
  induction n generalizing j b with
  | zero =>
    obtain rfl : j = lastBit := hj
    simp only [Nat.zero_add, List.range'_one, List.map_cons, List.map_nil, writeBits, bind_assoc, pure_bind]
    exact leads_writeBit hd hb (htx k j) trivial hk
  | succ n ih =>
    rw [List.range'_succ, List.map_cons, writeBits, bind_assoc]
    refine leads_writeBit hd hb (htx k j) trivial fun b' hb' => ?_
    rw [State.nextTx, if_pos (by omega)]
    exact ih hb' (by omega)

/-- Whole bytes from byte `k` on. -/
theorem leads_busWrite (hlast : lastBit = 7) {byte : Nat → Byte}
    (hbyte : ∀ k, bitsOf (byte k) = (List.range' 0 8).map (bit k)) {k n : Nat} (hkn : k + n + 1 = count)
    {f : Unit → Op Unit} (hk : ∀ q b', Underway s b' → Leads ((b'.onSeq q 0 h).advance i p) (f ()) b') :
    Leads (b.onSeq (at_ k 0 .low) 0 h) (busWrite ((List.range' k (n + 1)).map byte) >>= f) b := by
  subst hlast
  induction n generalizing k b with
  | zero =>
    simp only [Nat.zero_add, List.range'_one, List.map_cons, List.map_nil, busWrite, bind_assoc, pure_bind, writeByte, hbyte]
    refine leads_writeBits hd htx hb k rfl fun b' hb' => ?_
    rw [State.nextTx, if_neg (lt_irrefl 7), if_neg (by omega)]
    exact hk _ b' hb'
  | succ n ih =>
    rw [List.range'_succ, List.map_cons, busWrite, bind_assoc, writeByte, hbyte]
    refine leads_writeBits hd htx hb k rfl fun b' hb' => ?_
    rw [State.nextTx, if_neg (lt_irrefl 7), if_pos (by omega)]
    exact ih hb' (by omega)

end Transmit

section Receive

variable (hd : decode s.cmd = .ok i) {h : Hidden} {b : State} (hb : Underway s b)

include hd hb

/-- The bits of a byte from bit `j` on, into `ACC` and `CRCW`. -/
theorem leads_readBits (k : Nat) {j n : Nat} (hj : j + n = lastBitOf i) {f : Byte → Op Unit}
    (hk : ∀ l : List Bool, l.length = n + 1 → ∀ b', Underway s b' →
      Leads ((b'.onSeq (.rxData k (lastBitOf i) .tail) 0
        { h with acc := shiftAll l h.acc, crcw := l.foldl crcBit h.crcw }).nextRx i k (lastBitOf i))
        (f (shiftAll l h.acc)) b') :
    Leads (b.onSeq (.rxData k j .low) 0 h) (readBits (n + 1) h.acc >>= f) b := by
  induction n generalizing j b h with
  | zero =>
    obtain rfl : j = lastBitOf i := hj
    simp only [readBits, bind_assoc, pure_bind]
    exact leads_readBit hd hb (slotOf_rxData i s k _) (fun _ _ _ _ _ _ => rfl) fun v b' hb' => hk [v] rfl b' hb'
  | succ n ih =>
    rw [readBits, bind_assoc]
    refine leads_readBit hd hb (slotOf_rxData i s k _) (fun _ _ _ _ _ _ => rfl) fun v b' hb' => ?_
    rw [State.nextRx, if_pos (by omega)]
    exact ih (h := keepPayloadBit v h) hb' (by omega) fun l hl b' hb' => hk (v :: l) (by simp [hl]) b' hb'

/-- R140: a whole byte. -/
theorem leads_readByte (hlast : lastBitOf i = 7) (k : Nat) (hacc : h.acc = 0#8) {f : Byte → Op Unit}
    (hk : ∀ v b', Underway s b' →
      Leads ((b'.onSeq (.rxData k 7 .tail) 0 { h with acc := v, crcw := crcByte h.crcw v }).nextRx i k 7) (f v) b') :
    Leads (b.onSeq (.rxData k 0 .low) 0 h) (readByte >>= f) b := by
  rw [readByte, ← hacc]
  refine leads_readBits hd hb k (n := 7) hlast.symm fun l hl b' hb' => ?_
  have hcrc : l.foldl crcBit h.crcw = crcByte h.crcw (shiftAll l h.acc) := by
    rw [← foldl_crcBit_bitsOf, bitsOf_shiftAll hl]
  rw [hlast, hcrc]
  exact hk _ b' hb'

/-- The bytes of `r` stored in `STG` from byte `k` on (R142). -/
def stgStoreAll (stg : BitVec 72) (k : Nat) : List Byte → BitVec 72
  | [] => stg
  | v :: r => stgStoreAll (stgStore stg k v) (k + 1) r

omit hd hb in
theorem nextRx_nextByte (hlast : lastBitOf i = 7) {k : Nat} (hk : k + 1 < payloadBytesOf i) (q : Seq) :
    (b.onSeq q 0 h).nextRx i k 7
      = b.onSeq (.rxData (k + 1) 0 .low) 0 { h with stg := stgStore h.stg k h.acc, acc := 0#8 } := by
  rw [State.nextRx, hlast, if_neg (lt_irrefl 7)]
  exact if_pos hk

omit hd hb in
theorem nextRx_lastByte (hlast : lastBitOf i = 7) {k : Nat} (hk : ¬ k + 1 < payloadBytesOf i) (q : Seq) :
    (b.onSeq q 0 h).nextRx i k 7 = (b.onSeq q 0 { h with stg := stgStore h.stg k h.acc }).advance i .rxData := by
  rw [State.nextRx, hlast, if_neg (lt_irrefl 7)]
  exact if_neg hk

/-- R142: whole bytes from byte `k` on. -/
theorem leads_busRead (hlast : lastBitOf i = 7) {k n : Nat} (hkn : k + n + 1 = payloadBytesOf i) (hacc : h.acc = 0#8)
    {f : List Byte → Op Unit}
    (hk : ∀ r : List Byte, r.length = n + 1 → ∀ q a b', Underway s b' →
      Leads ((b'.onSeq q 0 { h with stg := stgStoreAll h.stg k r, acc := a, crcw := crcFrom h.crcw r }).advance i .rxData)
        (f r) b') :
    Leads (b.onSeq (.rxData k 0 .low) 0 h) (busRead (n + 1) >>= f) b := by
  induction n generalizing k b h f with
  | zero =>
    simp only [busRead, bind_assoc, pure_bind]
    refine leads_readByte hd hb hlast k hacc fun v b' hb' => ?_
    rw [nextRx_lastByte hlast (by omega)]
    exact hk [v] rfl _ v b' hb'
  | succ n ih =>
    rw [busRead, bind_assoc]
    refine leads_readByte hd hb hlast k hacc fun v b' hb' => ?_
    simp only [nextRx_nextByte hlast (show k + 1 < payloadBytesOf i by omega), bind_assoc, pure_bind]
    refine ih (k := k + 1) (f := fun r => f (v :: r)) hb' (by omega) rfl fun r hr q a b' hb' => ?_
    exact hk (v :: r) (by simp [hr]) q a b' hb'

end Receive

end Procedures

end Sys2Proof.Machine

/-! ## The staged bytes (R142, R170, R189) -/

namespace Sys2Proof.Machine

theorem getLsbD_stgByte (stg : BitVec 72) (m j : Nat) (hj : j < 8) : (stgByte stg m).getLsbD j = stg.getLsbD (8 * m + j) := by
  simp [stgByte, hj]

theorem getLsbD_byteMask (x : Nat) : (0xFF#72).getLsbD x = decide (x < 8) := by
  have hmask : 0xFF#72 = (BitVec.allOnes 8).setWidth 72 := rfl
  rw [hmask, BitVec.getLsbD_setWidth, BitVec.getLsbD_allOnes]
  grind

/-- R142: a byte stored in `STG` leaves the others as they are. -/
theorem stgByte_stgStore (stg : BitVec 72) {k m : Nat} (v : Byte) (hm : m < 9) :
    stgByte (stgStore stg k v) m = if m = k then v else stgByte stg m := by
  refine BitVec.eq_of_getLsbD_eq fun j hj => ?_
  have hin : 8 * m + j < 72 := by omega
  have hstore : (stgByte (stgStore stg k v) m).getLsbD j
      = ((stg.getLsbD (8 * m + j) && !(!decide (8 * m + j < 8 * k) && decide (8 * m + j - 8 * k < 8)))
        || (!decide (8 * m + j < 8 * k) && v.getLsbD (8 * m + j - 8 * k))) := by
    rw [getLsbD_stgByte _ m j hj, stgStore, BitVec.getLsbD_or, BitVec.getLsbD_and, BitVec.getLsbD_not,
      BitVec.getLsbD_shiftLeft, BitVec.getLsbD_shiftLeft, BitVec.getLsbD_setWidth, getLsbD_byteMask]
    have hv : ∀ x, 72 ≤ x → v.getLsbD x = false := fun x hx => BitVec.getLsbD_of_ge v x (by omega)
    have hx : 8 * m + j - 8 * k < 72 := by omega
    simp [hin, hx]
  rw [hstore]
  by_cases hlt : m < k
  · have h1 : 8 * m + j < 8 * k := by omega
    rw [if_neg (by omega), getLsbD_stgByte _ m j hj]
    simp [h1]
  by_cases heq : m = k
  · subst heq
    simp [hj]
  · have h1 : ¬ 8 * m + j < 8 * k := by omega
    have h2 : 8 ≤ 8 * m + j - 8 * k := by omega
    rw [if_neg heq, getLsbD_stgByte _ m j hj, BitVec.getLsbD_of_ge v _ h2]
    simp [h1, h2]

theorem stgByte_storeAll (stg : BitVec 72) (r : List Byte) {k m : Nat} (hm : m < 9) :
    stgByte (stgStoreAll stg k r) m = if k ≤ m ∧ m < k + r.length then r.getD (m - k) 0#8 else stgByte stg m := by
  induction r generalizing stg k with
  | nil => rw [stgStoreAll, if_neg (by simp)]
  | cons v r ih =>
    rw [stgStoreAll, ih, stgByte_stgStore _ _ hm, List.length_cons]
    by_cases heq : m = k
    · subst heq
      simp
    · by_cases hlt : k + 1 ≤ m ∧ m < k + 1 + r.length
      · obtain ⟨d, rfl⟩ : ∃ d, m = k + 1 + d := ⟨m - (k + 1), by omega⟩
        rw [if_pos hlt, if_pos (by omega), show k + 1 + d - (k + 1) = d by omega, show k + 1 + d - k = d + 1 by omega,
          List.getD_cons_succ]
      · rw [if_neg hlt, if_neg heq, if_neg (by omega)]

/-- A byte of a whole transfer. -/
theorem stgByte_storeAll_zero (stg : BitVec 72) {r : List Byte} {m : Nat} (hm : m < r.length) (hr : r.length ≤ 9) :
    stgByte (stgStoreAll stg 0 r) m = r.getD m 0#8 := by
  rw [stgByte_storeAll stg r (by omega), if_pos (by omega), Nat.sub_zero]

/-- All bytes of a transfer. -/
theorem stgBytes_storeAll (stg : BitVec 72) {r : List Byte} (hr : r.length ≤ 9) :
    stgBytes (stgStoreAll stg 0 r) r.length = r := by
  refine List.ext_getElem (by simp [stgBytes]) fun m _ hm => ?_
  simp [stgBytes, stgByte_storeAll_zero stg hm hr, hm]

/-- R170: eight bytes as an address. -/
theorem setWidth_storeAll (stg : BitVec 72) {r : List Byte} (hr : r.length = 8) :
    (stgStoreAll stg 0 r).setWidth 64 = addrOfBytes r := by
  refine BitVec.eq_of_getLsbD_eq fun j hj => ?_
  have hbyte := getLsbD_stgByte (stgStoreAll stg 0 r) (j / 8) (j % 8) (Nat.mod_lt j (by decide))
  rw [stgByte_storeAll_zero stg (by omega) (by omega), Nat.div_add_mod] at hbyte
  rw [getLsbD_addrOfBytes r j hj, hbyte, BitVec.getLsbD_setWidth]
  simp [hj]

/-! ### The address of a search (R189) -/

/-- R189: the bit kept in `STG` is the bit of the address. -/
theorem setWidth_keepAddrBit {k : Nat} (hk : k < 64) (v : Bool) (h : Hidden) :
    (keepAddrBit k v h).stg.setWidth 64 = setBit (h.stg.setWidth 64) k v := by
  refine BitVec.eq_of_getLsbD_eq fun j hj => ?_
  have hj72 : j < 72 := by omega
  have hk72 : k < 72 := by omega
  rw [getLsbD_setBit _ hk, BitVec.getLsbD_setWidth, BitVec.getLsbD_setWidth]
  cases v with
  | true => by_cases hjk : j = k <;> simp [keepAddrBit, hj, hk, hjk, hk72, eq_comm (a := k)]
  | false => by_cases hjk : j = k <;> simp [keepAddrBit, hj, hj72, hjk, hk72]

/-- The remainder of the first `k` bits of an address, as they come in one by one. -/
def crcOfBits (a : Word64) (k : Nat) : Byte := ((List.range k).map a.getLsbD).foldl crcBit 0#8

theorem crcOfBits_setBit {a : Word64} {k : Nat} (hk : k < 64) (v : Bool) :
    crcOfBits (setBit a k v) (k + 1) = crcBit (crcOfBits a k) v := by
  have hlow : (List.range k).map (setBit a k v).getLsbD = (List.range k).map a.getLsbD :=
    List.map_congr_left fun j hj => by rw [getLsbD_setBit _ hk, if_neg (List.mem_range.1 hj).ne]
  rw [crcOfBits, List.range_succ, List.map_append, List.foldl_append, hlow, List.map_singleton, getLsbD_setBit _ hk,
    if_pos rfl]
  rfl

/-- R155: bit by bit or byte by byte. -/
theorem crcOfBits_eq_crc8 (a : Word64) : crcOfBits a 64 = crc8 (bytesOf a) := by
  have hbits : (bytesOf a).flatMap bitsOf = (List.range 64).map a.getLsbD := by
    simp [bytesOf, bitsOf, List.range, List.range.loop]
  rw [crc8, ← crcSerialFormAgrees, hbits, crcOfBits]

end Sys2Proof.Machine

/-! ## The phases of an operation and their procedures (R246) -/

namespace Sys2Proof.Machine

theorem getLsbD_shiftIn_seven (v : Bool) (acc : Byte) : (shiftIn v acc).getLsbD 7 = v := by
  rw [getLsbD_shiftIn]
  simp

theorem getLsbD_shiftIn_six (v : Bool) (acc : Byte) : (shiftIn v acc).getLsbD 6 = acc.getLsbD 7 := by
  rw [getLsbD_shiftIn]
  simp

section Phases

variable {i : Instr} {s : State} (hd : decode s.cmd = .ok i) {b : State} (hb : Underway s b) {q : Seq} {h : Hidden}

include hd hb

/-- A position in which no time passes is left at once. -/
theorem leads_untimed (hbusy : q.busy = true) (htimed : q.timed = false) {t : Nat} {x : Op Unit}
    (hmove : Leads ((b.onSeq q t h).move i) x b) : Leads (b.onSeq q t h) x b :=
  .of_move (hb.decode hd) hbusy (fun ht => absurd (htimed.symm.trans ht) nofun) hmove

/-- R242: success, with the results of the procedure committed from the working state. -/
theorem leads_complete {x : Op Unit} {b₁ : State} (hx : x b = .ok () b₁)
    (hcommit : ((b.onSeq (.complete none) 0 h).commit i).finishOk = b₁.finishOk) :
    Leads ((b.onSeq q 0 h).enter .complete) x b := by
  refine leads_untimed hd hb (q := .complete none) rfl rfl ?_
  rw [move_complete_ok rfl, hcommit]
  unfold Leads
  rw [hx]
  exact .refl _

theorem leads_txAddrCmd {v : Byte} (hv : addrCmdByte (addrModeOfOp i) = v) {p : Phase}
    (hnext : phaseAfter .txAddrCmd (plan i) = p) {f : Unit → Op Unit}
    (hk : ∀ q b', Underway s b' → Leads ((b'.onSeq q 0 h).enter p) (f ()) b') :
    Leads ((b.onSeq q 0 h).enter .txAddrCmd) (writeByte v >>= f) b := by
  subst hv hnext
  have hbytes : busWrite ((List.range' 0 (0 + 1)).map fun _ => addrCmdByte (addrModeOfOp i))
      = writeByte (addrCmdByte (addrModeOfOp i)) := by simp [busWrite]
  rw [← hbytes]
  exact leads_busWrite hd (slotOf_txAddrCmd i s) hb rfl (fun _ => rfl) rfl hk

theorem leads_txCmd {v : Byte} (hv : i.opc = v) {p : Phase} (hnext : phaseAfter .txCmd (plan i) = p)
    {f : Unit → Op Unit} (hk : ∀ q b', Underway s b' → Leads ((b'.onSeq q 0 h).enter p) (f ()) b') :
    Leads ((b.onSeq q 0 h).enter .txCmd) (writeByte v >>= f) b := by
  subst hv hnext
  have hbytes : busWrite ((List.range' 0 (0 + 1)).map fun _ => i.opc) = writeByte i.opc := by simp [busWrite]
  rw [← hbytes]
  exact leads_busWrite hd (slotOf_txCmd i s) hb rfl (fun _ => rfl) rfl hk

theorem leads_txAddr {p : Phase} (hnext : phaseAfter .txAddr (plan i) = p) {f : Unit → Op Unit}
    (hk : ∀ q b', Underway s b' → Leads ((b'.onSeq q 0 h).enter p) (f ()) b') :
    Leads ((b.onSeq q 0 h).enter .txAddr) (busWrite (bytesOf b.addr) >>= f) b := by
  subst hnext
  have hbytes : bytesOf s.addr = (List.range' 0 (7 + 1)).map fun k => s.addr.extractLsb' (8 * k) 8 := rfl
  rw [hb.working.addr, hbytes]
  refine leads_busWrite hd (slotOf_txAddr i s) hb rfl (fun k => ?_) rfl hk
  simp [bitsOf, List.range, List.range.loop, List.range']

/-- R149, R228: payload bytes written. -/
theorem leads_txData (hlast : lastBitOf i = 7) {n : Nat} (hn : n + 1 = payloadBytesOf i) {p : Phase}
    (hnext : phaseAfter .txData (plan i) = p) {f : Unit → Op Unit}
    (hk : ∀ q b', Underway s b' → Leads ((b'.onSeq q 0 h).enter p) (f ()) b') :
    Leads ((b.onSeq q 0 h).enter .txData) (busWrite ((List.range' 0 (n + 1)).map (txByte i s)) >>= f) b := by
  subst hnext
  exact leads_busWrite hd (slotOf_txData i s) hb hlast (fun k => rfl) (by omega) hk

/-- R142: payload bytes read, staged and their remainder in `CRCW`. -/
theorem leads_rxData (hlast : lastBitOf i = 7) {n : Nat} (hn : n + 1 = payloadBytesOf i) {p : Phase}
    (hnext : phaseAfter .rxData (plan i) = p) {f : List Byte → Op Unit}
    (hk : ∀ r : List Byte, r.length = n + 1 → ∀ q a b', Underway s b' →
      Leads ((b'.onSeq q 0 { h with stg := stgStoreAll 0#72 0 r, acc := a, crcw := crc8 r }).enter p) (f r) b') :
    Leads ((b.onSeq q 0 h).enter .rxData) (busRead (n + 1) >>= f) b := by
  subst hnext
  exact leads_busRead (h := { h with stg := 0#72, acc := 0#8, crcw := 0#8 }) hd hb hlast (by omega) rfl hk

/-- The payload of one bit (R124). -/
theorem leads_rxBit (hlast : lastBitOf i = 0) (hcount : payloadBytesOf i = 1) {p : Phase}
    (hnext : phaseAfter .rxData (plan i) = p) {f : Bool → Op Unit}
    (hk : ∀ v q h' b', Underway s b' → h'.acc.getLsbD 7 = v → Leads ((b'.onSeq q 0 h').enter p) (f v) b') :
    Leads ((b.onSeq q 0 h).enter .rxData) (readBit Config.profile >>= f) b := by
  subst hnext
  refine leads_readBit (h := { h with stg := 0#72, acc := 0#8, crcw := 0#8 }) hd hb (slotOf_rxData i s 0 0)
    (fun _ _ _ _ _ _ => rfl) fun v b' hb' => ?_
  have hover : ∀ h', (b'.onSeq (.rxData 0 0 .tail) 0 h').nextRx i 0 0
      = (b'.onSeq (.rxData 0 0 .tail) 0 { h' with stg := stgStore h'.stg 0 h'.acc }).advance i .rxData := fun h' => by
    rw [State.nextRx, hlast, hcount]
    rfl
  rw [hover]
  exact hk v _ _ b' hb' (getLsbD_shiftIn_seven v _)

/-- R222: the hold. -/
theorem leads_hold {p : Phase} (hnext : phaseAfter .hold (plan i) = p) {f : Unit → Op Unit}
    (hk : ∀ q b', Underway s b' → Leads ((b'.onSeq q 0 h).enter p) (f ()) b') :
    Leads ((b.onSeq q 0 h).enter .hold) (delay Config.tCopy >>= f) b := by
  subst hnext
  exact leads_delay (q := .hold) hd ⟨rfl, rfl⟩ (next := State.advance i .hold) (fun _ _ => move_hold rfl) hb
    fun b' hb' _ => hk .hold b' hb'

/-- R215: one poll. -/
theorem leads_poll {p : Phase} (hnext : phaseAfter .poll (plan i) = p) {k n : Nat}
    (hready : ∀ q h' b', Underway s b' → Leads ((b'.onSeq q 0 h').enter p) (modify (State.setBitFlag true)) b')
    (hagain : ∀ h' b', Underway s b' → Leads (if k < Config.recallPolls then b'.onSeq (.poll (k + 1) .low) 0 h'
      else (b'.onSeq (.poll k .tail) 0 h').abort .timeout) (pollFrom n) b') :
    Leads (b.onSeq (.poll k .low) 0 h) (pollFrom (n + 1)) b := by
  subst hnext
  rw [pollFrom]
  refine leads_readBit hd hb (slotOf_poll i s k) (fun _ _ _ _ _ _ => rfl) fun v b' hb' => ?_
  have hlast : (b'.onSeq (.poll k .tail) 0 (keepBit v h)).lastSample = v := getLsbD_shiftIn_seven v h.acc
  rw [State.nextPoll, hlast]
  cases v with
  | true => exact hready _ _ b' hb'
  | false => exact hagain _ b' hb'

/-- R215: the polls, from poll `k` to the last one. -/
theorem leads_pollFrom {p : Phase} (hnext : phaseAfter .poll (plan i) = p) {k n : Nat} (hkn : k + n = Config.recallPolls)
    (hready : ∀ q h' b', Underway s b' → Leads ((b'.onSeq q 0 h').enter p) (modify (State.setBitFlag true)) b') :
    Leads (b.onSeq (.poll k .low) 0 h) (pollFrom (n + 1)) b := by
  induction n generalizing k h b with
  | zero =>
    refine leads_poll hd hb hnext hready fun h' b' _ => ?_
    rw [if_neg (by omega)]
    exact leads_raise b' _ 0 h' .timeout
  | succ n ih =>
    refine leads_poll hd hb hnext hready fun h' b' hb' => ?_
    rw [if_pos (by omega)]
    exact ih hb' (by omega)

/-! ### `VALIDATE` (R160) -/

theorem leads_validate {x : Op Unit} (hmove : Leads ((b.onSeq .validate 0 h).validateTick i) x b) :
    Leads ((b.onSeq q 0 h).enter .validate) x b :=
  leads_untimed hd hb (q := .validate) rfl rfl (by rwa [move_validate rfl])

omit hd hb in
/-- `CRCW` holds the remainder the procedure checks. -/
theorem leads_verdict {data : List Byte} (hcrc : h.crcw = crc8 data) {p : Phase}
    (hnext : phaseAfter .validate (plan i) = p) {f : Unit → Op Unit}
    (hk : crc8 data = 0#8 → Leads ((b.onSeq q 0 h).enter p) (f ()) b) :
    Leads ((b.onSeq q 0 h).verdict i) (checkCrc data >>= f) b := by
  have hcrcw : (b.onSeq q 0 h).hid.crcw = crc8 data := hcrc
  rw [State.verdict, hcrcw]
  by_cases h0 : crc8 data = 0#8
  · unfold Leads
    rw [if_pos h0, op_bind_ok (checkCrc_ok h0 b), State.advance, hnext]
    exact hk h0
  · unfold Leads
    rw [if_neg h0, op_bind_error (checkCrc_bad h0 b)]
    exact leads_raise b q 0 h _

/-! ### The search (R187 to R190) -/

/-- R188: the working state after the two samples of position `k`. -/
def afterReads (k : Nat) (r1 r2 : Bool) (h : Hidden) : Hidden :=
  { keepBit r2 (keepBit r1 h) with wmask := searchMask h.lastPos k r1 r2 h.wmask }

/-- R189: the working state after the triplet of position `k`, `c` being the bit written back. -/
def afterTriplet (k : Nat) (r1 r2 c : Bool) (h : Hidden) : Hidden := keepAddrBit k c (afterReads k r1 r2 h)

omit hd hb in
/-- R188: the two samples are the last in `ACC`. -/
theorem chosenBit_onSeq {r1 r2 : Bool} (h1 : h.acc.getLsbD 6 = r1) (h2 : h.acc.getLsbD 7 = r2) {k t : Nat} :
    (b.onSeq q t h).chosenBit k = searchChoice b.conflict h.lastPos k r1 r2 := by
  subst h1 h2
  rfl

/-- R187 to R189: one triplet. -/
theorem leads_triplet {k n : Nat} {a : Word64} {f : Word64 × Word64 → Op Unit}
    (hk : ∀ r1 r2 c b', Underway s b' →
      Leads (if k < 63 then b'.onSeq (.srch (k + 1) .r1 .low) 0 (afterTriplet k r1 r2 c h)
        else (b'.onSeq (.srch k .wb .tail) 0 (afterTriplet k r1 r2 c h)).advance i .srch)
        (searchFrom s.conflict h.lastPos n (k + 1) (setBit a k c) (searchMask h.lastPos k r1 r2 h.wmask) >>= f) b') :
    Leads (b.onSeq (.srch k .r1 .low) 0 h) (searchFrom s.conflict h.lastPos (n + 1) k a h.wmask >>= f) b := by
  rw [searchFrom, bind_assoc]
  refine leads_readBit hd hb (slotOf_srch_read i s k (t := .r1) (by decide)) (fun _ _ _ _ _ _ => rfl) fun r1 b hb => ?_
  rw [bind_assoc]
  refine leads_readBit (h := keepBit r1 h) hd hb (slotOf_srch_read i s k (t := .r2) (by decide))
    (fun _ _ _ _ _ _ => rfl) fun r2 b hb => ?_
  have h6 : (shiftIn r2 (shiftIn r1 h.acc)).getLsbD 6 = r1 := by rw [getLsbD_shiftIn_six, getLsbD_shiftIn_seven]
  have h7 : (shiftIn r2 (shiftIn r1 h.acc)).getLsbD 7 = r2 := getLsbD_shiftIn_seven r2 _
  have hr1 : (b.onSeq (.srch k .r2 .tail) 0 (keepBit r2 (keepBit r1 h))).r1 = r1 := h6
  have hr2 : (b.onSeq (.srch k .r2 .tail) 0 (keepBit r2 (keepBit r1 h))).r2 = r2 := h7
  rw [State.nextTriplet, hr1, hr2]
  by_cases hnobody : (r1 && r2) = true
  · rw [if_pos hnobody, if_pos hnobody]
    exact leads_raise_bind b _ 0 _ .noDevice f
  · rw [if_neg hnobody, if_neg hnobody, bind_assoc]
    have hwb := slotOf_srch_wb i s k h.lastPos (shiftIn r2 (shiftIn r1 h.acc))
    rw [h6, h7] at hwb
    refine leads_writeBit (h := afterReads k r1 r2 h) hd hb hwb ⟨rfl, rfl⟩ fun b' hb' => ?_
    rw [State.nextTriplet, chosenBit_onSeq (h := afterReads k r1 r2 h) h6 h7, hb'.working.conflict]
    exact hk r1 r2 _ b' hb'

/-- The triplets from position `k` on: `STG` holds the address so far, `CRCW` the remainder of its bits. -/
theorem leads_searchFrom {p : Phase} (hnext : phaseAfter .srch (plan i) = p) {k n : Nat} (hkn : k + n = 63)
    {a : Word64} (ha : h.stg.setWidth 64 = a) (hcrc : h.crcw = crcOfBits a k) {f : Word64 × Word64 → Op Unit}
    (hk : ∀ q h' b', Underway s b' → h'.crcw = crc8 (bytesOf (h'.stg.setWidth 64)) →
      Leads ((b'.onSeq q 0 h').enter p) (f (h'.stg.setWidth 64, h'.wmask)) b') :
    Leads (b.onSeq (.srch k .r1 .low) 0 h) (searchFrom s.conflict h.lastPos (n + 1) k a h.wmask >>= f) b := by
  subst hnext
  have hstg : ∀ {k r1 r2 c h}, k < 64 → (afterTriplet k r1 r2 c h).stg.setWidth 64
      = setBit (h.stg.setWidth 64) k c := fun hk => setWidth_keepAddrBit hk _ _
  induction n generalizing k h b a with
  | zero =>
    obtain rfl : k = 63 := hkn
    refine leads_triplet hd hb fun r1 r2 c b' hb' => ?_
    subst ha
    rw [if_neg (lt_irrefl 63), searchFrom, pure_bind, ← hstg (by omega)]
    refine hk _ (afterTriplet 63 r1 r2 c h) b' hb' ?_
    rw [← crcOfBits_eq_crc8, hstg (by omega), crcOfBits_setBit (by omega), ← hcrc]
    rfl
  | succ n ih =>
    refine leads_triplet hd hb fun r1 r2 c b' hb' => ?_
    rw [if_pos (by omega)]
    subst ha
    refine ih (h := afterTriplet k r1 r2 c h) hb' (by omega) (hstg (by omega)) ?_
    rw [crcOfBits_setBit (by omega), ← hcrc]
    rfl

end Phases

end Sys2Proof.Machine

/-! ## The operations: the big step is the run of the sequencer (R246, R251) -/

namespace Sys2Proof.Machine

/-! ### `CHECK` and the addressing step (R171, R210, R228) -/

theorem goto_enter (q : Seq) (p : Phase) (s : State) : (s.goto q).enter p = s.enter p := by cases p <;> rfl

theorem onSeq_enter {b : State} (h : b.hid.tmr = 0) (q : Seq) (p : Phase) :
    (b.onSeq q 0 b.hid).enter p = b.enter p := by
  rw [onSeq_hid h, goto_enter]

/-- The operand checks of an operation (R171, R210 step (0), R228). -/
def operandChecks (i : Instr) : Op Unit := do
  if checksAddr i then checkAddr else pure ()
  if checksConfig i then bufConfigCheck else pure ()

theorem checkAddr_eq (b : State) : checkAddr b
    = if crc8 (bytesOf b.addr) != 0#8 then .error (.raised (.checksumMismatch (crc8 (bytesOf b.addr)))) b
      else .ok () b := by
  rw [checkAddr, op_bind_ok (op_get b)]
  by_cases h : crc8 (bytesOf b.addr) = 0#8
  · rw [checkCrc_ok h, if_neg (by simp [h])]
  · rw [checkCrc_bad h, if_pos (by simp [h])]

theorem bufConfigCheck_eq (b : State) : bufConfigCheck b
    = if (configIndex (b.bufByte 4)).isNone then .error (.raised (.invalidConfig (b.bufByte 4))) b else .ok () b := by
  rw [bufConfigCheck, op_bind_ok (op_get b), validateConfig]
  cases configIndex (b.bufByte 4) <;> rfl

theorem operandChecks_eq (i : Instr) (b : State) : operandChecks i b
    = if checksAddr i && crc8 (bytesOf b.addr) != 0#8 then
        .error (.raised (.checksumMismatch (crc8 (bytesOf b.addr)))) b
      else if checksConfig i && (configIndex (b.bufByte 4)).isNone then
        .error (.raised (.invalidConfig (b.bufByte 4))) b
      else .ok () b := by
  have hconfig : (if checksConfig i then bufConfigCheck else pure () : Op Unit) b
      = if checksConfig i && (configIndex (b.bufByte 4)).isNone then
        .error (.raised (.invalidConfig (b.bufByte 4))) b else .ok () b := by
    cases checksConfig i with
    | false => rfl
    | true => exact bufConfigCheck_eq b
  unfold operandChecks
  cases checksAddr i with
  | false => exact hconfig
  | true =>
    simp only [if_true, Bool.true_and]
    by_cases h : (crc8 (bytesOf b.addr) != 0#8) = true
    · rw [if_pos h, op_bind_error ((checkAddr_eq b).trans (if_pos h))]
    · rw [if_neg h, op_bind_ok ((checkAddr_eq b).trans (if_neg h)), hconfig]

theorem Leads.of_bind_ok {m b b₁ : State} {α : Type} {x : Op α} {v : α} {f : α → Op Unit} (hx : x b = .ok v b₁)
    (h : Leads m (f v) b₁) : Leads m (x >>= f) b := by
  unfold Leads
  rwa [op_bind_ok hx]

theorem leads_get {m b : State} {f : State → Op Unit} (h : Leads m (f b) b) : Leads m (get >>= f) b :=
  .of_bind_ok (op_get b) h

section Addressing

variable {i : Instr} {s : State} (hd : decode s.cmd = .ok i) {b : State} (hb : Underway s b) (htmr : b.hid.tmr = 0)

include hd hb

theorem leads_check {p : Phase} (hnext : phaseAfter .check (plan i) = p) {f : Unit → Op Unit}
    (hk : Leads (b.enter p) (f ()) b) : Leads (b.enter .check) (operandChecks i >>= f) b := by
  have haddr : (b.enter .check).addr = b.addr := rfl
  have hbuf : (b.enter .check).bufByte 4 = b.bufByte 4 := rfl
  refine .of_move (s := b.enter .check) (hb.decode hd) rfl nofun ?_
  rw [move_check rfl, State.checkTick, haddr, hbuf]
  have hrun := operandChecks_eq i b
  split
  next h =>
    rw [if_pos h] at hrun
    rw [op_bind_error hrun]
    exact .of_complete_error rfl (.refl _)
  next h =>
    rw [if_neg h] at hrun
    split
    next hc =>
      rw [if_pos hc] at hrun
      rw [op_bind_error hrun]
      exact .of_complete_error rfl (.refl _)
    next hc =>
      rw [if_neg hc] at hrun
      rw [op_bind_ok hrun, State.advance, hnext]
      exact goto_enter .check p b ▸ hk

/-- An operation without operand checks has no `CHECK` in its plan. -/
theorem leads_operandChecks {r : List Phase}
    (hplan : plan i = (if checksAddr i || checksConfig i then [Phase.check] else []) ++ r) {f : Unit → Op Unit}
    (hk : Leads (b.enter (r.headD .complete)) (f ()) b) :
    Leads (b.enter ((plan i).headD .complete)) (operandChecks i >>= f) b := by
  cases hc : (checksAddr i || checksConfig i) with
  | true =>
    rw [hc, if_pos rfl] at hplan
    have hnext := phaseAfter_of_plan (l := []) hplan
    rw [hplan]
    exact leads_check hd hb hnext hk
  | false =>
    obtain ⟨haddr, hconfig⟩ := Bool.or_eq_false_iff.1 hc
    rw [hc] at hplan
    have hnone : operandChecks i = pure () := by
      rw [operandChecks, haddr, hconfig]
      rfl
    rw [hplan, hnone, pure_bind]
    exact hk

include htmr

/-- R210 step (1). -/
theorem leads_addressing {am : AddrMode} (ham : addrModeOfOp i = am) {l r : List Phase}
    (hplan : plan i = l ++ (addrPhases am ++ .txCmd :: r)) {f : Unit → Op Unit}
    (hk : ∀ q b', Underway s b' → Leads ((b'.onSeq q 0 b.hid).enter .txCmd) (f ()) b') :
    Leads (b.enter ((addrPhases am ++ .txCmd :: r).headD .complete)) (addressing am >>= f) b := by
  have hcmd : addrCmdByte (addrModeOfOp i) = addrCmdByte am := by rw [ham]
  cases am with
  | noAddr =>
    rw [addressing, pure_bind]
    exact onSeq_enter htmr .decode .txCmd ▸ hk .decode b hb
  | skipAddr =>
    have hi : i ≠ .init := fun h => by subst h; cases ham
    have hwait : phaseAfter .waitHigh (plan i) = .rst := phaseAfter_of_plan hplan
    have hrst : phaseAfter .rst (plan i) = .txAddrCmd :=
      phaseAfter_of_plan (l := l ++ [.waitHigh]) (r := .txAddrCmd :: .txCmd :: r) (by simp [hplan, addrPhases])
    have haddrCmd : phaseAfter .txAddrCmd (plan i) = .txCmd :=
      phaseAfter_of_plan (l := l ++ [.waitHigh, .rst]) (r := .txCmd :: r) (by simp [hplan, addrPhases])
    have hprologue : Leads (b.enter .waitHigh) (prologue >>= fun _ => writeByte (addrCmdByte .skipAddr) >>= f) b :=
      leads_prologue hd hi hwait hrst hb.working htmr fun q b' hb' => leads_txAddrCmd hd hb' hcmd haddrCmd hk
    rwa [addressing, skipStep, bind_assoc]
  | matchAddr =>
    have hi : i ≠ .init := fun h => by subst h; cases ham
    have hwait : phaseAfter .waitHigh (plan i) = .rst := phaseAfter_of_plan hplan
    have hrst : phaseAfter .rst (plan i) = .txAddrCmd :=
      phaseAfter_of_plan (l := l ++ [.waitHigh]) (r := .txAddrCmd :: .txAddr :: .txCmd :: r) (by simp [hplan, addrPhases])
    have haddrCmd : phaseAfter .txAddrCmd (plan i) = .txAddr :=
      phaseAfter_of_plan (l := l ++ [.waitHigh, .rst]) (r := .txAddr :: .txCmd :: r) (by simp [hplan, addrPhases])
    have haddr : phaseAfter .txAddr (plan i) = .txCmd :=
      phaseAfter_of_plan (l := l ++ [.waitHigh, .rst, .txAddrCmd]) (r := .txCmd :: r) (by simp [hplan, addrPhases])
    have hprologue : Leads (b.enter .waitHigh)
        (prologue >>= fun _ => writeByte (addrCmdByte .matchAddr) >>= fun _ => get >>= fun s => busWrite (bytesOf s.addr) >>= f) b :=
      leads_prologue hd hi hwait hrst hb.working htmr fun q b' hb' =>
        leads_txAddrCmd hd hb' hcmd haddrCmd fun q b' hb' => leads_get (leads_txAddr hd hb' haddr hk)
    rw [addressing, matchStep]
    simpa only [bind_assoc] using! hprologue

/-- R210: the frame of a function command. -/
theorem leads_functionFrame {am : AddrMode} (ham : addrModeOfOp i = am) {c : Byte} (hc : i.opc = c) {body : List Phase}
    (hplan : plan i = fnPlan am (checksConfig i) body) (haddr : checksAddr i = (am == .matchAddr)) {check x : Op Unit}
    (hcheck : check = if checksConfig i then bufConfigCheck else pure ())
    (hk : ∀ q b', Underway s b' → Leads ((b'.onSeq q 0 b.hid).enter ((body ++ [Phase.complete]).headD .complete)) x b') :
    Leads (b.enter ((plan i).headD .complete)) (functionFrame am check c x) b := by
  have hchecks : (addrOperandCheck am >>= fun _ => check) = operandChecks i := by
    rw [hcheck, operandChecks, haddr]
    cases am <;> rfl
  have hframe : functionFrame am check c x
      = operandChecks i >>= fun _ => addressing am >>= fun _ => writeByte c >>= fun _ => x := by
    rw [← hchecks, bind_assoc]
    rfl
  have hplan' : plan i = (if checksAddr i || checksConfig i then [Phase.check] else [])
      ++ (addrPhases am ++ .txCmd :: (body ++ [.complete])) := by
    rw [hplan, fnPlan, haddr, Bool.or_comm]
    simp
  have hnext : phaseAfter .txCmd (plan i) = (body ++ [Phase.complete]).headD .complete :=
    phaseAfter_of_plan (hplan'.trans (List.append_assoc _ _ _).symm)
  have haddressing : Leads (b.enter ((addrPhases am ++ Phase.txCmd :: (body ++ [Phase.complete])).headD Phase.complete))
      (addressing am >>= fun _ => writeByte c >>= fun _ => x) b :=
    leads_addressing hd hb htmr ham hplan' fun q b' hb' => leads_txCmd hd hb' hc hnext hk
  rw [hframe]
  exact leads_operandChecks hd hb hplan' haddressing

end Addressing

/-! ### The operations -/

/-- From `DECODE` the sequencer follows the procedure `body` (R245, R246). -/
def Sequenced (i : Instr) (body : Op Unit) : Prop :=
  ∀ b : State, decode b.cmd = .ok i → b.seq = .decode → b.hid.tmr = 0 →
    Leads ((b.prepare i).enter ((plan i).headD .complete)) body b

theorem underway_of_decode {b : State} (h : b.seq = .decode) : Underway b b :=
  ⟨.refl b, by rw [State.busy, h]; rfl, by rw [State.waitHigh, h]; rfl⟩

/-- The first phase, for an operation that prepares nothing. -/
theorem leads_firstPhase {b : State} (h : b.hid.tmr = 0) {p : Phase} {x : Op Unit}
    (hk : Leads ((b.onSeq .decode 0 b.hid).enter p) x b) : Leads (b.enter p) x b := onSeq_enter h .decode p ▸ hk

theorem sequenced_nop : Sequenced .nop nopBody := fun _ hd hq h0 =>
  leads_firstPhase h0 <| leads_complete hd (underway_of_decode hq) rfl rfl

theorem sequenced_init : Sequenced .init initBody := fun b hd _ h0 => by
  refine leads_initSeq hd rfl (.refl b) h0 fun p b' hb' _ => ?_
  rw [State.afterInitSeq, if_pos (.inl rfl)]
  exact leads_complete hd hb' rfl rfl

/-- A flag that `BIT` takes from the last sample. -/
theorem commit_lastSample {b : State} {q : Seq} {h : Hidden} {v : Bool} (hv : h.acc.getLsbD 7 = v) :
    ((b.onSeq q 0 h).setBitFlag (b.onSeq q 0 h).lastSample).finishOk = (b.setBitFlag v).finishOk := by
  subst hv
  rfl

theorem sequenced_rbit : Sequenced .rbit rbitBody := fun _ hd hq h0 =>
  leads_firstPhase h0 <| leads_rxBit hd (underway_of_decode hq) rfl rfl rfl fun _ _ _ _ hb' hv =>
    leads_complete hd hb' (op_modify _ _) (commit_lastSample hv)

theorem sequenced_wbit (v : Bool) : Sequenced (.wbit v) (wbitBody v) := fun b hd hq h0 => by
  have hbit : (txByte (.wbit v) b 0).getLsbD 0 = v := by
    change (0#7 ++ BitVec.ofBool v).getLsbD 0 = v
    cases v <;> decide
  have hslot := slotOf_txData (.wbit v) b 0 0
  rw [hbit] at hslot
  exact leads_firstPhase h0 <| .of_bind_pure <| leads_writeBit hd (underway_of_decode hq) hslot trivial fun _ hb' =>
    leads_complete hd hb' rfl rfl

theorem sequenced_rbyte : Sequenced .rbyte rbyteBody := fun b hd hq h0 => by
  have hbody : rbyteBody = busRead (0 + 1) >>= fun r => modify fun s => { s with data := r.getD 0 0#8 } := by
    simp [busRead, rbyteBody]
  rw [hbody]
  refine leads_firstPhase h0 <| leads_rxData hd (underway_of_decode hq) rfl rfl rfl fun r hr _ _ b' hb' => ?_
  refine leads_complete hd hb' (op_modify _ b') ?_
  rw [← stgByte_storeAll_zero 0#72 (show 0 < r.length by omega) (by omega)]
  rfl

theorem sequenced_wbyte (v : Byte) : Sequenced (.wbyte v) (wbyteBody v) := fun b hd hq h0 => by
  have hbody : wbyteBody v = busWrite ((List.range' 0 (0 + 1)).map (txByte (.wbyte v) b)) := by
    simp [busWrite, wbyteBody, txByte]
  rw [hbody]
  exact leads_firstPhase h0 <| .of_bind_pure <| leads_txData hd (underway_of_decode hq) rfl rfl rfl
    fun _ _ hb' => leads_complete hd hb' rfl rfl

/-- R142, R143: a count is 0 or one more than the last index. -/
theorem count_cases (n : BitVec 4) : n = 0#4 ∨ n ≠ 0#4 ∧ ∃ m, n.toNat = m + 1 := by
  by_cases hn : n = 0#4
  · exact .inl hn
  · exact .inr ⟨hn, Nat.exists_eq_succ_of_ne_zero (BitVec.toNat_ne_iff_ne.2 hn)⟩

/-- R148: the staged bytes are committed to `BUF`. -/
theorem commit_rbytes (b : State) (q : Seq) (h : Hidden) (n : BitVec 4) :
    ((b.onSeq q 0 h).commit (.rbytes n)).finishOk
      = State.finishOk { b with buf := storeBytes b.buf 0 (stgBytes h.stg n.toNat) } := rfl

theorem sequenced_rbytes {n : BitVec 4} (hn : n.toNat ≤ 9) : Sequenced (.rbytes n) (rbytesBody n.toNat) :=
  fun b hd hq h0 => by
  obtain rfl | ⟨hne, m, hm⟩ := count_cases n
  · exact leads_firstPhase h0 <| leads_complete hd (underway_of_decode hq) rfl rfl
  · have hplan : plan (.rbytes n) = [.rxData, .complete] := if_neg hne
    rw [hplan, hm, rbytesBody]
    refine leads_firstPhase h0 <| leads_rxData hd (underway_of_decode hq) rfl hm.symm
      (phaseAfter_of_plan (l := []) hplan) fun r hr _ _ b' hb' => ?_
    refine leads_complete hd hb' (op_modify _ b') ?_
    have hbytes := stgBytes_storeAll 0#72 (show r.length ≤ 9 by omega)
    rw [hr, ← hm] at hbytes
    rw [commit_rbytes, hbytes]

theorem bufPrefix_eq_map (s : State) {n : Nat} (hn : n ≤ 9) : s.bufPrefix n = (List.range' 0 n).map s.bufByte := by
  refine List.ext_getElem (by simp [State.bufPrefix, hn]) fun k hk _ => ?_
  have hk9 : k < 9 := by simp [State.bufPrefix] at hk; omega
  simp [State.bufPrefix, bufByte_eq_getElem s k hk9]

theorem sequenced_wbytes {n : BitVec 4} (hn : n.toNat ≤ 9) : Sequenced (.wbytes n) (wbytesBody n.toNat) :=
  fun b hd hq h0 => by
  obtain rfl | ⟨hne, m, hm⟩ := count_cases n
  · exact leads_firstPhase h0 <| leads_complete hd (underway_of_decode hq) rfl rfl
  · have hplan : plan (.wbytes n) = [.txData, .complete] := if_neg hne
    have hbytes : b.bufPrefix (m + 1) = (List.range' 0 (m + 1)).map (txByte (.wbytes n) b) :=
      bufPrefix_eq_map b (hm ▸ hn)
    rw [hplan, hm, wbytesBody]
    refine leads_get ?_
    rw [hbytes]
    exact leads_firstPhase h0 <| .of_bind_pure <| leads_txData hd (underway_of_decode hq) rfl hm.symm
      (phaseAfter_of_plan (l := []) hplan) fun _ _ hb' => leads_complete hd hb' rfl rfl

theorem sequenced_crc (n : BitVec 4) : Sequenced (.crc n) (crcBody n.toNat) := fun b hd hq h0 =>
  leads_firstPhase h0 <| leads_validate hd (underway_of_decode hq) <|
    leads_complete (q := .validate) (h := { b.hid with crcw := crc8 (b.bufPrefix n.toNat) }) hd (underway_of_decode hq)
      (op_modify _ b) rfl

theorem sequenced_crcchk (n : BitVec 4) : Sequenced (.crcchk n) (crcchkBody n.toNat) := fun b hd hq h0 => by
  have hverdict := leads_verdict (b := b) (q := .validate) (h := { b.hid with crcw := crc8 (b.bufPrefix n.toNat) })
    (i := .crcchk n) (f := pure) rfl rfl fun _ => leads_complete hd (underway_of_decode hq) rfl rfl
  exact leads_firstPhase h0 <| leads_get <| .of_bind_pure <| leads_validate hd (underway_of_decode hq) hverdict

theorem sequenced_readRom : Sequenced .readRom readRomBody := fun b hd hq h0 => by
  refine leads_prologue hd nofun rfl rfl (.refl b) h0 fun _ b hb => ?_
  refine leads_txCmd hd hb rfl rfl fun _ b hb => ?_
  refine leads_rxData hd hb rfl rfl rfl fun r hr _ _ b hb => ?_
  refine leads_validate hd hb <| leads_verdict rfl rfl fun _ => ?_
  refine leads_complete hd hb (op_modify _ b) ?_
  rw [← setWidth_storeAll 0#72 hr]
  rfl

theorem sequenced_matchRom : Sequenced .matchRom matchRomBody := fun b hd hq h0 => by
  have hbody : matchRomBody = operandChecks .matchRom >>= fun _ => matchStep := by
    simp [matchRomBody, operandChecks, checksAddr, checksConfig]
  rw [hbody]
  refine leads_check hd (underway_of_decode hq) (p := .waitHigh) rfl ?_
  refine leads_prologue hd nofun rfl rfl (.refl b) h0 fun _ b hb => ?_
  refine leads_txCmd hd hb rfl rfl fun _ b hb => ?_
  exact leads_get <| .of_bind_pure <| leads_txAddr hd hb rfl fun _ _ hb => leads_complete hd hb rfl rfl

theorem sequenced_skipRom : Sequenced .skipRom skipRomBody := fun b hd _ h0 =>
  leads_prologue hd nofun rfl rfl (.refl b) h0 fun _ _ hb => .of_bind_pure <|
    leads_txCmd hd hb rfl rfl fun _ _ hb => leads_complete hd hb rfl rfl

/-- R190, R191: the working state a search prepares is the one its pass starts from. -/
theorem sequenced_search {i : Instr} (hi : i = .searchRom ∨ i = .alarmSearch) : Sequenced i (searchBody i.opc) :=
  fun b hd hq h0 => by
  have hne : i ≠ .init := by rintro rfl; cases hi <;> contradiction
  have hplan : plan i = [.waitHigh, .rst, .txCmd, .srch, .validate, .complete] := by obtain rfl | rfl := hi <;> rfl
  obtain ⟨b₁, hb₁⟩ : ∃ b₁, b₁ = b.prepare i := ⟨_, rfl⟩
  have hstart : startPass b = .ok () b₁ := by obtain rfl | rfl := hi <;> exact hb₁ ▸ rfl
  have hw : Working b b₁ := hb₁ ▸ prepare_working i b
  have hhid : b₁.hid.tmr = 0 ∧ b₁.hid.stg = 0#72 ∧ b₁.hid.crcw = 0#8 ∧ b₁.hid.wmask = b.conflict
      ∧ b₁.hid.lastPos = highestSet b.conflict := by
    subst hb₁
    obtain rfl | rfl := hi <;> exact ⟨h0, rfl, rfl, rfl, rfl⟩
  obtain ⟨htmr, hstg, hcrcw, hmask, hlast⟩ := hhid
  have hverdict : ∀ {q h' b'}, (State.onSeq b' q 0 h').validateTick i = (State.onSeq b' q 0 h').verdict i := by
    obtain rfl | rfl := hi <;> exact rfl
  have hcommit : ∀ {q h' b'}, (State.onSeq b' q 0 h').commit i
      = (State.onSeq b' q 0 h').commitSearch (h'.stg.setWidth 64) h'.wmask := by
    obtain rfl | rfl := hi <;> exact rfl
  have hpass : searchFrom b₁.conflict (highestSet b₁.conflict) 64 0 0#64 b₁.conflict
      = searchFrom b.conflict b₁.hid.lastPos (63 + 1) 0 0#64 b₁.hid.wmask := by rw [hlast, hmask, hw.conflict]
  refine .of_bind_ok hstart <| leads_get ?_
  rw [← hb₁, hplan, hpass]
  refine leads_prologue hd hne (phaseAfter_of_plan (l := []) hplan) (phaseAfter_of_plan (l := [.waitHigh]) hplan) hw htmr
    fun _ b' hb => ?_
  refine leads_txCmd hd hb rfl (phaseAfter_of_plan (l := [.waitHigh, .rst]) hplan) fun _ b' hb => ?_
  refine leads_searchFrom (h := b₁.hid) (k := 0) hd hb (phaseAfter_of_plan (l := [.waitHigh, .rst, .txCmd]) hplan) rfl
    (by rw [hstg]; rfl) (a := 0#64) hcrcw fun _ h' b' hb hcrc => ?_
  refine leads_validate hd hb ?_
  rw [hverdict]
  refine leads_verdict hcrc (phaseAfter_of_plan (l := [.waitHigh, .rst, .txCmd, .srch]) hplan) fun _ => ?_
  refine leads_complete hd hb (op_modify _ b') ?_
  rw [hcommit]
  rfl

theorem sequenced_convertT (am : AddrMode) : Sequenced (.convertT am) (convertTBody am) := fun _ hd hq h0 =>
  leads_functionFrame hd (underway_of_decode hq) h0 rfl rfl (body := []) rfl rfl rfl fun _ _ hb =>
    leads_complete hd hb rfl rfl

theorem sequenced_recallE2 (am : AddrMode) : Sequenced (.recallE2 am) (recallE2Body am) := fun b hd hq h0 => by
  have hpoll : phaseAfter .poll (plan (.recallE2 am)) = .complete := by cases am <;> rfl
  refine leads_functionFrame hd (underway_of_decode hq) h0 rfl rfl (body := [.poll]) rfl rfl rfl fun _ b' hb => ?_
  rw [recallPolls_eq]
  exact leads_pollFrom (k := 1) (n := 142) hd hb hpoll recallPolls_eq.symm fun _ _ b' hb =>
    leads_complete hd hb (op_modify _ b') rfl

theorem sequenced_readPower (am : AddrMode) : Sequenced (.readPower am) (readPowerBody am) := fun b hd hq h0 => by
  have hrx : phaseAfter .rxData (plan (.readPower am)) = .complete := by cases am <;> rfl
  refine leads_functionFrame hd (underway_of_decode hq) h0 rfl rfl (body := [.rxData]) rfl rfl rfl fun _ b' hb => ?_
  exact leads_rxBit hd hb rfl rfl hrx fun _ _ _ b' hb hv =>
    leads_complete hd hb (op_modify _ b') (commit_lastSample hv)

theorem sequenced_copySp (am : AddrMode) : Sequenced (.copySp am) (copySpBody am) := fun b hd hq h0 => by
  have hhold : phaseAfter .hold (plan (.copySp am)) = .complete := by cases am <;> rfl
  refine leads_functionFrame hd (underway_of_decode hq) h0 rfl rfl (body := [.hold]) rfl rfl rfl fun _ b' hb => ?_
  exact .of_bind_pure <| leads_hold hd hb hhold fun _ _ hb => leads_complete hd hb rfl rfl

/-- R224: the CRC first, then the configuration byte. -/
theorem leads_validateScratchpad {am : AddrMode} {r : List Byte} (hr : r.length = 9) {q : Seq} {h : Hidden} {b : State}
    (hstg : h.stg = stgStoreAll 0#72 0 r) (hcrc : h.crcw = crc8 r) {f : BitVec 2 → Op Unit}
    (hk : ∀ idx, configIndex (r.getD 4 0#8) = some idx → Leads ((b.onSeq q 0 h).enter .complete) (f idx) b) :
    Leads ((b.onSeq q 0 h).validateTick (.readSp am))
      (checkCrc r >>= fun _ => validateConfig (r.getD 4 0#8) >>= f) b := by
  have hbyte : stgByte (b.onSeq q 0 h).hid.stg 4 = r.getD 4 0#8 := by
    rw [← stgByte_storeAll_zero 0#72 (show 4 < r.length by omega) (by omega), ← hstg]
    rfl
  have hcrcw : (b.onSeq q 0 h).hid.crcw = crc8 r := hcrc
  have hnext : phaseAfter .validate (plan (.readSp am)) = .complete := by cases am <;> rfl
  rw [State.validateTick, hbyte, hcrcw]
  by_cases h0 : crc8 r = 0#8
  · cases hidx : configIndex (r.getD 4 0#8) with
    | none =>
      rw [if_pos ⟨h0, rfl⟩, validateConfig, hidx]
      exact .of_bind_ok (checkCrc_ok h0 b) (leads_raise_bind b q 0 h _ f)
    | some idx =>
      rw [if_neg (by simp), validateConfig, hidx]
      exact leads_verdict hcrc hnext fun _ => hk idx hidx
  · rw [if_neg (fun hc => h0 hc.1)]
    exact leads_verdict hcrc hnext fun hc => absurd hc h0

/-- R224: the staged bytes are committed, with the configuration they name. -/
theorem commit_readSp (b : State) (q : Seq) (h : Hidden) (am : AddrMode) : ((b.onSeq q 0 h).commit (.readSp am)).finishOk
    = (b.commitScratchpad (stgBytes h.stg 9) ((configIndex (stgByte h.stg 4)).getD 0#2)).finishOk := rfl

theorem sequenced_readSp (am : AddrMode) : Sequenced (.readSp am) (readSpBody am) := fun b hd hq h0 => by
  have hrx : phaseAfter .rxData (plan (.readSp am)) = .validate := by cases am <;> rfl
  refine leads_functionFrame hd (underway_of_decode hq) h0 rfl rfl (body := [.rxData, .validate]) rfl rfl rfl
    fun _ b' hb => ?_
  refine leads_rxData (n := 8) hd hb rfl rfl hrx fun r hr _ a b' hb => ?_
  refine leads_validate hd hb <| leads_validateScratchpad hr rfl rfl fun idx hidx => ?_
  refine leads_complete hd hb (op_modify _ b') ?_
  have hbytes := stgBytes_storeAll 0#72 (show r.length ≤ 9 by omega)
  have hbyte := stgByte_storeAll_zero 0#72 (show 4 < r.length by omega) (by omega)
  rw [hr] at hbytes
  rw [commit_readSp, hbytes, hbyte, hidx]
  rfl

theorem sequenced_writeSp (am : AddrMode) : Sequenced (.writeSp am) (writeSpBody am) := fun b hd hq h0 => by
  have htx : phaseAfter .txData (plan (.writeSp am)) = .complete := by cases am <;> rfl
  refine leads_functionFrame hd (underway_of_decode hq) h0 rfl rfl (body := [.txData]) rfl rfl rfl fun _ b' hb => ?_
  have hbytes : [b'.bufByte 2, b'.bufByte 3, b'.bufByte 4] = (List.range' 0 (2 + 1)).map (txByte (.writeSp am) b) := by
    simp only [State.bufByte, hb.working.buf]
    rfl
  refine leads_get ?_
  rw [hbytes]
  exact .of_bind_pure <| leads_txData hd hb rfl rfl htx fun _ _ hb => leads_complete hd hb rfl rfl

/-! ### The whole -/

theorem count_le {n : BitVec 4} (h : lenOk n = true) : n.toNat ≤ 9 := of_decide_eq_true h

/-- Every operation is the run of its procedure, which the sequencer follows. -/
theorem exec_sequenced {i : Instr} (hwf : i.wellFormed = true) :
    ∃ body, exec i = operation (encode i) body ∧ Sequenced i body := by
  have hcount : ∀ {n : BitVec 4} {body : Op Unit} (j : Instr), n.toNat ≤ 9 → Sequenced i body →
      Sequenced i (withCount j n body) := fun j hn hs => (withCount_of_le j hn _).symm ▸ hs
  cases i with
  | nop => exact ⟨_, rfl, sequenced_nop⟩
  | init => exact ⟨_, rfl, sequenced_init⟩
  | rbit => exact ⟨_, rfl, sequenced_rbit⟩
  | wbit v => exact ⟨_, rfl, sequenced_wbit v⟩
  | rbyte => exact ⟨_, rfl, sequenced_rbyte⟩
  | wbyte v => exact ⟨_, rfl, sequenced_wbyte v⟩
  | rbytes n => exact ⟨_, rfl, hcount _ (count_le hwf) (sequenced_rbytes (count_le hwf))⟩
  | wbytes n => exact ⟨_, rfl, hcount _ (count_le hwf) (sequenced_wbytes (count_le hwf))⟩
  | crc n => exact ⟨_, rfl, hcount _ (count_le hwf) (sequenced_crc n)⟩
  | crcchk n => exact ⟨_, rfl, hcount _ (count_le hwf) (sequenced_crcchk n)⟩
  | readRom => exact ⟨_, rfl, sequenced_readRom⟩
  | matchRom => exact ⟨_, rfl, sequenced_matchRom⟩
  | skipRom => exact ⟨_, rfl, sequenced_skipRom⟩
  | searchRom => exact ⟨_, rfl, sequenced_search (.inl rfl)⟩
  | alarmSearch => exact ⟨_, rfl, sequenced_search (.inr rfl)⟩
  | convertT am => exact ⟨_, rfl, sequenced_convertT am⟩
  | recallE2 am => exact ⟨_, rfl, sequenced_recallE2 am⟩
  | readPower am => exact ⟨_, rfl, sequenced_readPower am⟩
  | copySp am => exact ⟨_, rfl, sequenced_copySp am⟩
  | readSp am => exact ⟨_, rfl, sequenced_readSp am⟩
  | writeSp am => exact ⟨_, rfl, sequenced_writeSp am⟩

/-- Settles O57: the sequencer follows the procedure of the operation phase by phase, whatever faults and host events
come. -/
theorem operationIsTheRunOfItsEvents : Obligations.OperationIsTheRunOfItsEvents := by
  intro i s t hwf hexec
  obtain ⟨body, hbody, hseq⟩ := exec_sequenced hwf
  have hd : decode (s.accept (encode i)).cmd = .ok i := decodeOfEncodeIsTheInstruction i hwf
  have ht : s.operate (encode i) body = t := Host.Outcome.next.inj (by rw [← hexec, hbody]; rfl)
  have hmove : (s.accept (encode i)).move i
      = ((s.accept (encode i)).prepare i).enter ((plan i).headD .complete) := move_decode rfl
  have hdecode : Leads (s.accept (encode i)) body (s.accept (encode i)) :=
    .of_move hd rfl nofun (hmove ▸ hseq (s.accept (encode i)) hd rfl rfl)
  rw [← ht, operate_eq_conclude]
  exact hdecode

end Sys2Proof.Machine

/-! ## Errors (R260, R262, R263, R266)

What shows an error is read off the four ways an operation can end. Which error it is comes by composition: what the
parts of its procedure can raise (`Within`), held against the operation's row of R266. -/

namespace Sys2Proof.Machine

/-- Settles O18: of the four ways an operation ends only the error end shows an error, and it commits no result. -/
theorem failedOperationChangesOnlyStatus : Obligations.FailedOperationChangesOnlyStatus := by
  intro i s t h herr
  obtain ⟨f, u, -, -, rfl⟩ | ⟨e, u, -, hran, rfl⟩ | ⟨-, hw, -⟩ | ⟨-, u, rfl⟩ := exec_cases h
  · cases herr
  · exact ⟨hran.working.sameResults, hran.working.cmd, rfl, rfl, rfl⟩
  · exact absurd (hw.err.symm.trans herr) nofun
  · cases herr

/-! ### Procedures that keep to a row of R266 -/

/-- How a run that started without an error indication ended: with an error the row of `i` marks, or still without the
indication. -/
def EndsInRow {α : Type} (i : Instr) : EStateM.Result Stop State α → Prop
  | .error (.raised e) _ => mayRaise i e = true
  | .error _ t => t.err = false
  | .ok _ t => t.err = false

/-- The procedure raises only what the row of operation `i` marks, and sets no error indication itself. -/
def KeepsToRow {α : Type} (i : Instr) (x : Op α) : Prop := ∀ s, s.err = false → EndsInRow i (x s)

section Compose

variable {α β : Type} {i : Instr} {x : Op α} {f : α → Op β}

theorem KeepsToRow.pure (a : α) : KeepsToRow i (pure a : Op α) := fun _ => id

/-- A procedure that changes no register, by the errors it can raise. -/
theorem KeepsToRow.of_within {E : OpError → Prop} (hx : Within E True x) (hE : ∀ e, E e → mayRaise i e = true) :
    KeepsToRow i x := by
  intro s hs
  have h := hx s
  match hr : x s with
  | .ok _ t => rw [hr] at h; exact h.err.trans hs
  | .error (.raised e) t => rw [hr] at h; exact hE e h.1
  | .error .waiting t =>
    rw [hr] at h
    obtain ⟨-, hw, -⟩ := h
    exact hw.err.trans hs
  | .error .rst t =>
    rw [hr] at h
    obtain ⟨u, rfl⟩ := h
    rfl

theorem KeepsToRow.bind (hx : KeepsToRow i x) (hf : ∀ a, KeepsToRow i (f a)) : KeepsToRow i (x >>= f) := by
  intro s hs
  have h := hx s hs
  match hr : x s with
  | .ok a t => rw [hr] at h; rw [op_bind_ok hr]; exact hf a t h
  | .error e t =>
    rw [hr] at h
    rw [op_bind_error hr]
    cases e with
    | raised | waiting | rst => exact h

theorem KeepsToRow.get_bind {f : State → Op β} (hf : ∀ s, KeepsToRow i (f s)) : KeepsToRow i (get >>= f) :=
  .bind (fun _ => id) hf

theorem KeepsToRow.modify {f : State → State} (hf : ∀ s, (f s).err = s.err) : KeepsToRow i (modify f : Op Unit) :=
  fun s hs => (hf s).trans hs

end Compose

/-! ### The columns of R266 -/

section Columns

variable {i : Instr}

theorem mayRaise_of_isPinFault (hpin : hasPinEvent i = true) (e : OpError) (he : e.isPinFault) :
    mayRaise i e = true := by
  cases e with
  | pinFault c => exact hpin
  | _ => cases he

theorem mayRaise_of_isLine (hpin : hasPinEvent i = true) (habsent : mayRaise i .noDevice = true) (e : OpError)
    (he : e.isLine) : mayRaise i e = true := by
  obtain he | rfl := he
  · exact mayRaise_of_isPinFault hpin e he
  · exact habsent

/-- A row that allows one mismatch allows every remainder but 0. -/
theorem mayRaise_of_isChecksum (hcrc : mayRaise i (.checksumMismatch 1#8) = true) (e : OpError) (he : e.isChecksum) :
    mayRaise i e = true := by
  cases e with
  | checksumMismatch c =>
    have hc : c ≠ 0#8 := he
    simpa [mayRaise, hc] using hcrc
  | _ => cases he

/-- A row that allows one byte that is no configuration pattern allows every such byte. -/
theorem mayRaise_of_isConfig (hconfig : mayRaise i (.invalidConfig 0#8) = true) (e : OpError) (he : e.isConfig) :
    mayRaise i e = true := by
  cases e with
  | invalidConfig v =>
    have hv : configIndex v = none := he
    have h0 : configIndex 0#8 = none := by decide
    simpa [mayRaise, hv, h0] using hconfig
  | _ => cases he

theorem KeepsToRow.of_isPinFault {α : Type} {x : Op α} (hpin : hasPinEvent i = true)
    (hx : Within OpError.isPinFault True x) : KeepsToRow i x := .of_within hx (mayRaise_of_isPinFault hpin)

theorem KeepsToRow.of_isLine {α : Type} {x : Op α} (hpin : hasPinEvent i = true)
    (habsent : mayRaise i .noDevice = true) (hx : Within OpError.isLine True x) : KeepsToRow i x :=
  .of_within hx (mayRaise_of_isLine hpin habsent)

theorem KeepsToRow.checkCrc (hcrc : mayRaise i (.checksumMismatch 1#8) = true) (data : List Byte) :
    KeepsToRow i (checkCrc data) := .of_within (checkCrc_within True data) (mayRaise_of_isChecksum hcrc)

theorem KeepsToRow.validateConfig (hconfig : mayRaise i (.invalidConfig 0#8) = true) (v : Byte) :
    KeepsToRow i (validateConfig v) := .of_within (validateConfig_within True v) (mayRaise_of_isConfig hconfig)

end Columns

/-! ### Operations with a count (R148, R149, R158, R159) -/

theorem KeepsToRow.withCount {i : Instr} {n : BitVec 4} {body : Op Unit} (hn : lenOk n = true)
    (hbody : KeepsToRow i body) : KeepsToRow i (withCount i n body) := by
  rwa [Sys2Proof.Machine.withCount, if_pos hn]

/-- With no byte to read there is no pin event. -/
theorem rbytesBody_keepsToRow (n : BitVec 4) : KeepsToRow (.rbytes n) (rbytesBody n.toNat) := by
  have hread : KeepsToRow (.rbytes n) (busRead n.toNat) := by
    by_cases hn : n = 0#4
    · subst hn
      exact .pure _
    · exact .of_isPinFault (bne_iff_ne.2 hn) (busRead_within True _)
  exact .bind hread fun _ => .modify fun _ => rfl

/-- With no byte to write there is no pin event. -/
theorem wbytesBody_keepsToRow (n : BitVec 4) : KeepsToRow (.wbytes n) (wbytesBody n.toNat) := by
  refine .get_bind fun s => ?_
  by_cases hn : n = 0#4
  · subst hn
    exact .pure _
  · exact .of_isPinFault (bne_iff_ne.2 hn) (busWrite_within True _)

/-! ### The ROM commands (R170, R171, R190, R191) -/

theorem readRomBody_keepsToRow : KeepsToRow .readRom readRomBody :=
  .bind (.of_isLine rfl rfl prologue_within) fun _ => .bind (.of_isPinFault rfl (writeByte_within True _)) fun _ =>
  .bind (.of_isPinFault rfl (busRead_within True 8)) fun _ => .bind (.checkCrc rfl _) fun _ => .modify fun _ => rfl

theorem matchRomBody_keepsToRow : KeepsToRow .matchRom matchRomBody :=
  .bind (.get_bind fun _ => .checkCrc rfl _) fun _ => .of_isLine rfl rfl matchStep_within

theorem searchBody_keepsToRow {i : Instr} (hpin : hasPinEvent i = true) (habsent : mayRaise i .noDevice = true)
    (hcrc : mayRaise i (.checksumMismatch 1#8) = true) (c : Byte) : KeepsToRow i (searchBody c) :=
  .bind (.modify fun _ => rfl) fun _ => .get_bind fun _ => .bind (.of_isLine hpin habsent prologue_within) fun _ =>
  .bind (.of_isPinFault hpin (writeByte_within True c)) fun _ =>
  .bind (.of_isLine hpin habsent (searchFrom_within True _ _ _ _ _ _)) fun _ => .bind (.checkCrc hcrc _) fun _ =>
  .modify fun _ => rfl

/-! ### The function commands (R210 to R228) -/

/-- R210: `ADDR` is checked with `MATCH` only, and only an address mode other than `NONE` finds nobody there. -/
theorem KeepsToRow.functionFrame {i : Instr} {am : AddrMode} (hpin : hasPinEvent i = true)
    (haddr : checksAddr i = (am == .matchAddr)) (hinit : hasInitSeq i = (am != .noAddr)) (hne : (i != .init) = true)
    {check body : Op Unit} (c : Byte) (hcheck : KeepsToRow i check) (hbody : KeepsToRow i body) :
    KeepsToRow i (functionFrame am check c body) := by
  have hoperand : KeepsToRow i (addrOperandCheck am) := by
    cases am with
    | noAddr | skipAddr => exact .pure _
    | matchAddr =>
      have hcrc : mayRaise i (.checksumMismatch 1#8) = true := by simp [mayRaise, haddr]
      exact .get_bind fun _ => .checkCrc hcrc _
  have habsent : mayRaise i .noDevice = (am != .noAddr) := by rw [mayRaise, hinit, hne, Bool.and_true]
  have haddressing : KeepsToRow i (addressing am) := by
    cases am with
    | noAddr => exact .pure _
    | skipAddr => exact .of_isLine hpin habsent skipStep_within
    | matchAddr => exact .of_isLine hpin habsent matchStep_within
  exact .bind hoperand fun _ => .bind hcheck fun _ => .bind haddressing fun _ =>
    .bind (.of_isPinFault hpin (writeByte_within True c)) fun _ => hbody

section Function

variable (am : AddrMode)

/-- R215: a poll faults, or the polls are used up. -/
theorem pollFrom_keepsToRow (n : Nat) : KeepsToRow (.recallE2 am) (pollFrom n) := by
  induction n with
  | zero => exact fun _ _ => rfl
  | succ n ih =>
    refine .bind (.of_isPinFault rfl (readBit_within True _)) fun b => ?_
    cases b with
    | false => exact ih
    | true => exact .modify fun _ => rfl

theorem readPowerTail_keepsToRow : KeepsToRow (.readPower am) readPowerTail :=
  .bind (.of_isPinFault rfl (readBit_within True _)) fun _ => .modify fun _ => rfl

theorem readSpTail_keepsToRow : KeepsToRow (.readSp am) readSpTail := by
  have hcrc : mayRaise (.readSp am) (.checksumMismatch 1#8) = true := by simp [mayRaise]
  exact .bind (.of_isPinFault rfl (busRead_within True 9)) fun _ => .bind (.checkCrc hcrc _) fun _ =>
    .bind (.validateConfig rfl _) fun _ => .modify fun _ => rfl

theorem bufConfigCheck_keepsToRow : KeepsToRow (.writeSp am) bufConfigCheck :=
  .get_bind fun _ => .bind (.validateConfig rfl _) fun _ => .pure _

theorem writeSpTail_keepsToRow : KeepsToRow (.writeSp am) writeSpTail :=
  .get_bind fun _ => .of_isPinFault rfl (busWrite_within True _)

end Function

/-! ### The operations -/

/-- The procedure of a well-formed operation keeps to the operation's row. -/
theorem exec_keepsToRow {i : Instr} (hwf : i.wellFormed = true) :
    ∃ body, exec i = operation (encode i) body ∧ KeepsToRow i body := by
  cases i with
  | nop => exact ⟨_, rfl, .pure _⟩
  | init => exact ⟨_, rfl, .bind (.of_isPinFault rfl (initSeq_within _)) fun _ => .pure _⟩
  | rbit => exact ⟨_, rfl, .bind (.of_isPinFault rfl (readBit_within True _)) fun _ => .modify fun _ => rfl⟩
  | wbit b => exact ⟨_, rfl, .of_isPinFault rfl (writeBit_within True _ b)⟩
  | rbyte => exact ⟨_, rfl, .bind (.of_isPinFault rfl (readByte_within True)) fun _ => .modify fun _ => rfl⟩
  | wbyte v => exact ⟨_, rfl, .of_isPinFault rfl (writeByte_within True v)⟩
  | rbytes n => exact ⟨_, rfl, .withCount hwf (rbytesBody_keepsToRow n)⟩
  | wbytes n => exact ⟨_, rfl, .withCount hwf (wbytesBody_keepsToRow n)⟩
  | crc n => exact ⟨_, rfl, .withCount hwf (.modify fun _ => rfl)⟩
  | crcchk n => exact ⟨_, rfl, .withCount hwf (.get_bind fun _ => .checkCrc rfl _)⟩
  | readRom => exact ⟨_, rfl, readRomBody_keepsToRow⟩
  | matchRom => exact ⟨_, rfl, matchRomBody_keepsToRow⟩
  | skipRom => exact ⟨_, rfl, .of_isLine rfl rfl skipStep_within⟩
  | searchRom | alarmSearch => exact ⟨_, rfl, searchBody_keepsToRow rfl rfl rfl _⟩
  | convertT am => exact ⟨_, rfl, .functionFrame rfl rfl rfl rfl _ (.pure _) (.pure _)⟩
  | recallE2 am => exact ⟨_, rfl, .functionFrame rfl rfl rfl rfl _ (.pure _) (pollFrom_keepsToRow am _)⟩
  | readPower am =>
    exact ⟨_, rfl, .functionFrame rfl rfl rfl rfl _ (.pure _) (readPowerTail_keepsToRow am)⟩
  | copySp am =>
    exact ⟨_, rfl, .functionFrame rfl rfl rfl rfl _ (.pure _)
      (.of_isPinFault rfl (delay_within _ True _))⟩
  | readSp am => exact ⟨_, rfl, .functionFrame rfl rfl rfl rfl _ (.pure _) (readSpTail_keepsToRow am)⟩
  | writeSp am =>
    exact ⟨_, rfl, .functionFrame rfl rfl rfl rfl _ (bufConfigCheck_keepsToRow am)
      (writeSpTail_keepsToRow am)⟩

/-- R262: an error that an operation shows at its end is the one its procedure raised. -/
theorem operate_shows_raised {i : Instr} {body : Op Unit} (h : KeepsToRow i body) {w : Word} {s : State}
    (herr : (s.operate w body).err = true) :
    ∃ e, mayRaise i e = true ∧ (s.operate w body).ecode = e.code ∧ (s.operate w body).einfo = e.info := by
  have hend := h (s.accept w) rfl
  unfold State.operate at herr ⊢
  match hr : body (s.accept w) with
  | .ok _ t => rw [hr] at herr; cases herr
  | .error (.raised e) t => rw [hr] at hend; exact ⟨e, hend, rfl, rfl⟩
  | .error .waiting t => rw [hr] at hend herr; exact absurd (hend.symm.trans herr) nofun
  | .error .rst t => rw [hr] at hend herr; exact absurd (hend.symm.trans herr) nofun

/-- Settles O20: the procedure keeps to its row, and its end reports the error raised. -/
theorem errorsAreThoseOfTheTable : Obligations.ErrorsAreThoseOfTheTable := by
  intro i s t hwf hexec herr
  obtain ⟨body, hbody, hrow⟩ := exec_keepsToRow hwf
  rw [hbody] at hexec
  obtain rfl : s.operate (encode i) body = t := Host.Outcome.next.inj hexec
  exact operate_shows_raised hrow herr

end Sys2Proof.Machine

/-! ## `rst` idle and in the middle of an operation (R45, R290, R291, V-RST2)

`rst` is settled once, as the state that `abandon` gives. An operation with an initialization sequence whose operand
checks pass is abandoned as that sequence is: `AwaitHigh` and `PinLow` use up the answers, and `rst` meets the delay that
comes after them. -/

namespace Sys2Proof.Machine

/-- R291, R10: what is left of an abandoned operation. -/
theorem abandon_eq (left t : Nat) (s : State) :
    s.abandon left t = { State.reset with
      inputs := s.inputs, freeIx := s.freeIx,
      trace := if min t left = 0 then s.trace else .delay (min t left) :: s.trace } := by
  unfold State.abandon State.emitPart
  split <;> rfl

/-- An idle OWM takes a host event the same, whether or not it would have waited for it. -/
theorem step_duringEvent_of_idle {s : State} {ev : HostEvent} {rest : List Input} (hs : s.busy = false)
    (hi : s.inputs = .during ev :: rest) : step s = hostEvent ev { s with inputs := rest } := by
  rw [step_of_idle hs, idleStep, hi]

/-- Settles O11: idle the step is `rst` itself; where time passes it abandons the operation. -/
theorem rstRestoresTheResetState : Obligations.RstRestoresTheResetState := by
  refine ⟨fun s t rest hs hi => ?_, fun s t rest htimed hi => ?_⟩
  · rcases hi with hi | hi
    · exact step_hostEvent hs hi
    · exact step_duringEvent_of_idle hs hi
  · rw [step_busyEvent htimed hi]
    exact congrArg Host.Outcome.next (abandon_eq s.hid.tmr t { s with inputs := rest })

/-! ### `rst` in the reset pulse -/

/-- Clean answers are quiet when no host event comes right after them. -/
theorem quiet_of_clean {s : State} {l rest : List Input} {x : Input} (hi : s.inputs = l ++ x :: rest)
    (hl : ∀ y ∈ l, y.clean = true) (hx : x.isDuring = false) : s.quiet l.length :=
  ⟨by simp [hi], by simpa [hi] using hl, by simpa [hi] using hx⟩

/-- The last of some clean answers is a look without a fault. -/
theorem append_pins_of_clean {l : List Input} {n : Nat} (hlen : l.length = n + 1) (hl : ∀ x ∈ l, x.clean = true) :
    ∃ answers p, l = answers ++ [.pins p] ∧ p.pinFault = false := by
  obtain rfl | ⟨answers, x, rfl⟩ := List.eq_nil_or_concat' l
  · cases hlen
  · have hx := hl x (by simp)
    cases x with
    | pins p => exact ⟨answers, p, rfl, by simpa [Input.clean] using hx⟩
    | host ev | during ev => cases hx

/-- R123: `AwaitHigh` on a line that rises. -/
theorem awaitHigh_rises {s : State} {m : Nat} (hq : s.quiet (m + 1)) (hr : s.risesAfter m) :
    awaitHigh s = .ok () ({ s with inputs := s.inputs.drop (m + 1), seq := .rst .low }.emit .awaited) :=
  awaitFrom_rises (s := { s with seq := .waitHigh }) m hq hr

/-- R126: a `PinLow` looks at the pins once, whatever comes after that look. -/
theorem pinLow_clean {s : State} {p : Pins} {rest : List Input} (hi : s.inputs = .pins p :: rest)
    (hp : p.pinFault = false) : pinLow s = .ok () ({ s with inputs := rest }.driveLow) := by
  have hsettle : settle 0 s = .ok () s := settle_undisturbed 0 (by simp [hi])
  have hevent : pinEvent (fun _ u => u.driveLow) s = .ok p.owIn ({ s with inputs := rest }.driveLow) := by
    simp [pinEvent, hsettle, State.look, hi, hp]
  rw [pinLow, op_bind_ok hevent, op_pure]

/-- R291: a delay that `rst` meets. -/
theorem delay_rst {s : State} {t : Nat} {rest : List Input} (hi : s.inputs = .during (.rst t) :: rest) (n : Nat) :
    delay n s = .error .rst ({ s with inputs := rest }.abandon n t) :=
  op_bind_error (by rw [settle, hi, settleFrom])

/-- R122, R291: an initialization sequence that `rst` meets in its reset pulse. -/
theorem initSeq_rst_in_pulse (P : Profile) {s : State} {m t : Nat} {p : Pins} {rest : List Input}
    (hq : s.quiet (m + 1)) (hr : s.risesAfter m) (hi : s.inputs.drop (m + 1) = .pins p :: .during (.rst t) :: rest)
    (hp : p.pinFault = false) (ht : min t P.H = t) (hpos : t ≠ 0) :
    initSeq P s = .error .rst { State.reset with
      inputs := rest, freeIx := s.freeIx, trace := .delay t :: .low :: .awaited :: s.trace } := by
  rw [initSeq, op_bind_ok (awaitHigh_rises hq hr), op_bind_ok (pinLow_clean hi hp), op_bind_error (delay_rst rfl _),
    abandon_eq, ht, if_neg hpos]
  rfl

/-- Every operation with an initialization sequence stops as that sequence does. -/
theorem exec_stopsWith_initSeq {i : Instr} {s : State} (haddr : checksAddr i = true → crc8 (bytesOf s.addr) = 0#8)
    (hconfig : checksConfig i = true → ∃ idx, s.buf[4] = configByte idx) (hi : hasInitSeq i = true) :
    ∃ body h, exec i = operation (encode i) body
      ∧ StopsWith (initSeq Config.profile (s.at_ (encode i) 0 [] .decode h)) (body (s.accept (encode i))) := by
  by_cases hne : i = .init
  · subst hne
    exact ⟨_, _, rfl, .bind (.refl _)⟩
  · obtain ⟨body, h, hexec, -, hstop⟩ := exec_stopsWith_prologue haddr hconfig hi hne
    exact ⟨body, h, hexec, fun e t he => hstop e t (op_bind_error he)⟩

/-- R291: an abandoned operation leaves the state its procedure stopped in. -/
theorem operate_rst {w : Word} {body : Op Unit} {s t : State} (h : body (s.accept w) = .error .rst t) :
    s.operate w body = t := by
  rw [State.operate, h]

/-- Settles O60: all but the last of the answers are for `AwaitHigh`, the last one is for the `PinLow`, and `rst` meets
the delay of the pulse, which lasts 480 µs. -/
theorem rstInTheResetPulseShowsTheTraceSoFar : Obligations.RstInTheResetPulseShowsTheTraceSoFar := by
  intro s i m t l rest hinit haddr hconfig hin hlen hclean hrises hpos hle
  obtain ⟨answers, p, rfl, hp⟩ := append_pins_of_clean hlen hclean
  have hin' : s.inputs = answers ++ .pins p :: .during (.rst t) :: rest := by simp [hin]
  have hlen' : answers.length = m + 1 := by simpa using hlen
  have hq : s.quiet (m + 1) := by
    rw [← hlen']
    exact quiet_of_clean hin' (fun y hy => hclean y (List.mem_append_left _ hy)) rfl
  have hdrop : s.inputs.drop (m + 1) = .pins p :: .during (.rst t) :: rest := by
    rw [hin', List.drop_left' hlen']
  obtain ⟨body, h, hexec, hstop⟩ := exec_stopsWith_initSeq haddr hconfig hinit
  have hrst := initSeq_rst_in_pulse Config.profile (s := s.at_ (encode i) 0 [] .decode h)
    (quiet_at (by simpa using hq)) (risesAfter_at hrises) hdrop hp (Nat.min_eq_left hle) hpos.ne'
  rw [hexec, operation, operate_rst (hstop _ _ hrst)]
  rfl

end Sys2Proof.Machine
